-- ==== Sys2Proof/Word.lean ====
section
/-! DEFINITION. The bit-vector types of RB4IM-FE that the spec treats as bits (10_state.md, 20_memory.md), and the
four-colour record of the drum kit. -/

namespace Sys2Proof

/-- A byte of any of the address spaces (10_state.md rule R45: "byte = 8 bits"). -/
abbrev Byte := BitVec 8

/-- A 16-bit field of a payload (20_memory.md rule R61). -/
abbrev Half := BitVec 16

/-- An `i16` output: the 16-bit word read as two's complement, `BitVec.toInt` being the spec's `as_i16`
(00_scope.md section 6). -/
abbrev I16 := BitVec 16

/-- The 49-bit routing key: bit 48 is `has_id`, bits 47:0 are `id` (10_state.md rule R21). -/
abbrev Key := BitVec 49

/-- The key `W:<id>` of the receiver-capture path, `has_id` = 1 (rules R21, R110). -/
def Key.wireless (id : BitVec 48) : Key := 1#1 ++ id

/-- The key `D:<n>` of the direct-transport path, `has_id` = 0 (rules R21, R110). -/
def Key.direct (stream : BitVec 48) : Key := 0#1 ++ stream

/-- One value per drum colour, in the order of rule R260: red, yellow, blue, green. -/
structure Four (α : Type) where
  red    : α
  yellow : α
  blue   : α
  green  : α
  deriving DecidableEq, Repr, Inhabited

end Sys2Proof
end

