-- ==== Sys2Proof/Syntax.lean ====
section
/-! DEFINITION. The syntax of RB4IM-FE: the operands of an operation, and ONE inductive with one constructor per row of
spec/opcode_table.json. The table has four levels (30_encoding.md rules R96 to R99): a delivered frame is one row of
level 1 (framing), the complete message it may yield one row of level 2 (dispatch), a forwarded message one row of
level 3 (report); a control-port operation is one row of its own level. -/

namespace Sys2Proof

/-- The layouts a session's mapper can have, `None` first (10_state.md rule R27). -/
inductive Kind where
  | none | guitar | drums | sixFret | gamepad | fallback | legacyDemux
  deriving DecidableEq, Repr, Inhabited

/-- `mapper.axis_mode` (10_state.md rule R27, 45_report_extractors.md rule R252). -/
inductive AxisMode where
  | full | half
  deriving DecidableEq, Repr, Inhabited

/-- `mapper.pickup_mode` (10_state.md rule R27, 45_report_extractors.md rule R252). -/
inductive PickupMode where
  | continuous | plateau
  deriving DecidableEq, Repr, Inhabited

/-- The fixed prefix of a header: `h.cmd`, `h.flags` (the whole flags byte) and `h.seq` (10_state.md rule R23). -/
structure Hdr where
  cmd   : Byte
  flags : Byte
  seq   : Byte
  deriving DecidableEq, Repr, Inhabited

/-- A complete message `M = (cmd, flags, seq, data)` (40_header_decoder.md rule R137, 41_chunk_reassembler.md rule
R157); `data` is the address space `MSG`, offset 0 first. -/
structure Message where
  cmd   : Byte
  flags : Byte
  seq   : Byte
  data  : List Byte
  deriving DecidableEq, Repr, Inhabited

/-- The levels of the opcode map (30_encoding.md section 3). -/
inductive Level where
  | framing | dispatch | report | control
  deriving DecidableEq, Repr

/-- What reaches the block on one of its two ports (00_scope.md rule R7): the bytes of a frame, or a control operation
with its number and operands (30_encoding.md rule R99). The routing key of a frame is a side-band of the frame, not
part of its bytes (40_header_decoder.md rule R131). -/
inductive Wire where
  | frame   (bytes : List Byte)
  | control (op : Nat) (key : Key) (n : Nat) (mask : BitVec 16)
  deriving DecidableEq, Repr

/-- One constructor per row of spec/opcode_table.json. Level 1 rows carry the header prefix, the index field `x` of a
chunked frame and the packet payload `p`; level 2 and 3 rows carry the complete message; control rows their operands. -/
inductive Instr where
  | msg (h : Hdr) (p : List Byte)
  | chkNop (h : Hdr)
  | chkS (h : Hdr) (x : Nat) (p : List Byte)
  | chkE (h : Hdr) (x : Nat)
  | chkD (h : Hdr) (x : Nat) (p : List Byte)
  | ack (m : Message)
  | arrival (m : Message)
  | descriptor (m : Message)
  | auth (m : Message)
  | keystroke (m : Message)
  | serial (m : Message)
  | input (m : Message)
  | ghlInput (m : Message)
  | other (m : Message)
  | inputGtr (m : Message)
  | inputDrm (m : Message)
  | ghlInputGhl (m : Message)
  | inputPad (m : Message)
  | inputFb (m : Message)
  | keystrokeGuide (m : Message)
  | lgyConnect (m : Message)
  | lgyDisconnect (m : Message)
  | lgyInput (m : Message)
  | noop (m : Message)
  | reset
  | close (k : Key)
  | sinkLost (k : Key)
  | csrRead (n : Nat)
  | csrW1c (n : Nat) (mask : BitVec 16)
  deriving DecidableEq, Repr

/-- The level of a row (the table's column `level`). -/
def Instr.level : Instr → Level
  | .msg .. | .chkNop .. | .chkS .. | .chkE .. | .chkD .. => .framing
  | .ack _ | .arrival _ | .descriptor _ | .auth _ | .keystroke _ | .serial _ | .input _ | .ghlInput _ | .other _ => .dispatch
  | .inputGtr _ | .inputDrm _ | .ghlInputGhl _ | .inputPad _ | .inputFb _ | .keystrokeGuide _ | .lgyConnect _
  | .lgyDisconnect _ | .lgyInput _ | .noop _ => .report
  | .reset | .close _ | .sinkLost _ | .csrRead _ | .csrW1c .. => .control

end Sys2Proof
end

