-- ==== Sys2Proof/Config.lean ====
section
/-! DEFINITION. The configuration record `Cfg` of 00_scope.md section 4, its reference value `REFCFG`, its constraints,
the part of the machine's state that selects an operation (`Ctx`), and the free values: opaque constants with no body
that stand for the values the spec leaves open after an operation. -/

namespace Sys2Proof

/-- Header parameters (00_scope.md section 4.2). -/
structure HdrCfg where
  cmdOff : Nat
  flagsOff : Nat
  seqOff : Nat
  lenOff : Nat
  flagNeedsAck : Nat
  flagSystem : Nat
  flagChunkStart : Nat
  flagChunk : Nat
  deriving DecidableEq, Repr

/-- Command ids (00_scope.md section 4.2, 30_encoding.md rule R97). -/
structure CmdCfg where
  ack : Byte
  arrival : Byte
  descriptor : Byte
  auth : Byte
  keystroke : Byte
  serial : Byte
  input : Byte
  ghlInput : Byte
  deriving DecidableEq, Repr

/-- Arrival payload (rule R101). -/
structure ArrCfg where
  minLen : Nat
  vidOff : Nat
  pidOff : Nat
  deriving DecidableEq, Repr

/-- Descriptor payload and capacities (rule R102, 00_scope.md sections 4.1 and 4.3). -/
structure DscCfg where
  maxGuids : Nat
  maxNames : Nat
  maxNameLen : Nat
  hdrMin : Nat
  hlenOff : Nat
  dlenOff : Nat
  nEnt : Nat
  entNames : Nat
  entGuids : Nat
  strlenW : Nat
  guidBytes : Nat
  deriving DecidableEq, Repr

/-- Guide key event (rule R107). -/
structure KeyCfg where
  len : Nat
  flagsOff : Nat
  pressedBit : Nat
  codeOff : Nat
  guide : Byte
  deriving DecidableEq, Repr

/-- Six button bit positions `(m, p, u, d, l, r)` of a 16-bit button field (rule R244). -/
structure BtnCfg where
  menu : Nat
  options : Nat
  dpadUp : Nat
  dpadDown : Nat
  dpadLeft : Nat
  dpadRight : Nat
  deriving DecidableEq, Repr

/-- Guitar report (rule R103). -/
structure GtrCfg where
  len : Nat
  btnOff : Nat
  tiltOff : Nat
  whammyOff : Nat
  pickupOff : Nat
  upperOff : Nat
  lowerOff : Nat
  green : Nat
  red : Nat
  yellow : Nat
  blue : Nat
  orange : Nat
  lowerFlagBit : Nat
  deriving DecidableEq, Repr

/-- Drums report (rule R104); `negMask` is `DRM_NEG_MASK`. -/
structure DrmCfg where
  len : Nat
  btnOff : Nat
  padsOff : Nat
  cymsOff : Nat
  padShift : Four Nat
  cymShift : Four Nat
  negMask : BitVec 8
  deriving DecidableEq, Repr

/-- SixFret report (rule R105); `fretBit` lists `GHL_FRET_BIT[0..5]`. -/
structure GhlCfg where
  len : Nat
  btnOff : Nat
  fretOff : Nat
  fretBit : List Nat
  btn : BtnCfg
  strumOff : Nat
  strumCenter : Byte
  whammyOff : Nat
  whammyRest : Byte
  deriving DecidableEq, Repr

/-- Gamepad report (rule R106). -/
structure PadCfg where
  len : Nat
  btnOff : Nat
  ltOff : Nat
  rtOff : Nat
  lxOff : Nat
  lyOff : Nat
  rxOff : Nat
  ryOff : Nat
  deriving DecidableEq, Repr

/-- The `LGY_*` parameters, all OPEN (46_legacy_demux.md rule R300). -/
structure LgyCfg where
  nUsers : Nat
  cmdConnect : Byte
  cmdDisconnect : Byte
  cmdInput : Byte
  userOff : Nat
  connectMin : Nat
  subtypeOff : Nat
  subtypesGuitar : List Byte
  subtypeDrums : Byte
  innerOff : Nat
  deriving DecidableEq, Repr

/-- An entry of `GUID_TABLE` (rule R5); `guid` is in wire order. -/
structure GuidEntry where
  guid : List Byte
  kind : Kind
  axisMode : AxisMode
  pickupMode : PickupMode
  deriving DecidableEq, Repr

/-- The configuration record (rule R4). `lgy = none` is `HAS_LEGACY_DEMUX` = 0. `plateau` holds the function
`PICKUP_PLATEAU` of rule R6 as the list of its steps: an entry `(b, v)` says that from the byte `b` on the value is `v`
(every function of a byte has such a list). `guideEn` lists the kinds with `GUIDE_EN` = 1. -/
structure Cfg where
  nSess : Nat
  frameMax : Nat
  chunkBufBytes : Nat
  varintMaxBytes : Nat
  guidTable : List GuidEntry
  guidTableN : Nat
  hasGamepad : Bool
  fbLayouts : List Kind
  guideEn : List Kind
  plateau : List (Nat × I16)
  hdr : HdrCfg
  cmd : CmdCfg
  arr : ArrCfg
  dsc : DscCfg
  key : KeyCfg
  btn : BtnCfg
  gtr : GtrCfg
  drm : DrmCfg
  ghl : GhlCfg
  pad : PadCfg
  lgy : Option LgyCfg
  deriving DecidableEq, Repr

/-- `LEN_W` = 7 * `VARINT_MAX_BYTES` (00_scope.md section 4.1). -/
def Cfg.lenW (c : Cfg) : Nat := 7 * c.varintMaxBytes

/-- `HAS_LEGACY_DEMUX` (00_scope.md section 4.1). -/
def Cfg.hasLegacy (c : Cfg) : Bool := c.lgy.isSome

/-- `LGY_NUSERS` (46_legacy_demux.md rule R300): how many children a slot has (10_state.md rule R38); 0 without the unit. -/
def Cfg.lgyUsers (c : Cfg) : Nat :=
  match c.lgy with
  | none => 0
  | some l => l.nUsers

/-- `report_len(K)` of rule R280; kinds that are no layout have none. -/
def Cfg.reportLen (c : Cfg) : Kind → Option Nat
  | .guitar => some c.gtr.len
  | .drums => some c.drm.len
  | .sixFret => some c.ghl.len
  | .gamepad => some c.pad.len
  | .none | .fallback | .legacyDemux => none

/-- `report_cmd(K)` of rule R280. -/
def Cfg.reportCmd (c : Cfg) : Kind → Byte
  | .sixFret => c.cmd.ghlInput
  | .none | .guitar | .drums | .gamepad | .fallback | .legacyDemux => c.cmd.input

/-- The eight command ids of rule R97. -/
def CmdCfg.list (c : CmdCfg) : List Byte :=
  [c.ack, c.arrival, c.descriptor, c.auth, c.keystroke, c.serial, c.input, c.ghlInput]

/-- Constraint: the bits of a button field lie inside its 16 bits. -/
def BtnCfg.ok (b : BtnCfg) : Bool :=
  b.menu < 16 && b.options < 16 && b.dpadUp < 16 && b.dpadDown < 16 && b.dpadLeft < 16 && b.dpadRight < 16

/-- Constraint: four nibble shifts inside a 16-bit field. -/
def Four.shiftsOk (f : Four Nat) : Bool :=
  f.red ≤ 12 && f.yellow ≤ 12 && f.blue ≤ 12 && f.green ≤ 12

/-- The header constraints: three prefix bytes at distinct offsets, the length field after them, four distinct flag bits.
DESIGN CHOICE (notes/assumptions/27.md): the spec prints none of them as a constraint; they are the shape in which rules
R91, R132 and R93 lay the header out. -/
def HdrCfg.ok (h : HdrCfg) : Bool :=
  h.cmdOff < 3 && h.flagsOff < 3 && h.seqOff < 3 && decide [h.cmdOff, h.flagsOff, h.seqOff].Nodup && h.lenOff == 3
    && h.flagNeedsAck < 8 && h.flagSystem < 8 && h.flagChunkStart < 8 && h.flagChunk < 8
    && decide [h.flagNeedsAck, h.flagSystem, h.flagChunkStart, h.flagChunk].Nodup

/-- The constraints of rule R300. -/
def LgyCfg.ok (l : LgyCfg) (cmds : List Byte) : Bool :=
  l.nUsers ≤ 256 && decide ([l.cmdConnect, l.cmdDisconnect, l.cmdInput] ++ cmds).Nodup
    && l.userOff < l.connectMin && l.subtypeOff < l.connectMin && l.userOff < l.innerOff

/-- The constraints of 00_scope.md section 4.3 on the payload layouts; identifiers have 16 bytes (rule R5). DESIGN CHOICE
(notes/assumptions/27.md): `strlenW == 2` is no constraint of the spec. Rule R102 gives a class name a length of
`DSC_STRLEN_W` bytes, of which rule R218 reads two (`LE16`), and the model calls any other width ill-formed. -/
def Cfg.layoutsOk (c : Cfg) : Bool :=
  c.arr.vidOff + 2 ≤ c.arr.minLen && c.arr.pidOff + 2 ≤ c.arr.minLen
    && c.dsc.hlenOff + 2 ≤ c.dsc.hdrMin && c.dsc.dlenOff + 2 ≤ c.dsc.hdrMin
    && c.dsc.entNames < c.dsc.nEnt && c.dsc.entGuids < c.dsc.nEnt && c.dsc.strlenW == 2 && c.dsc.guidBytes == 16
    && c.key.flagsOff < c.key.len && c.key.codeOff < c.key.len && c.key.pressedBit < 8
    && c.btn.ok
    && c.gtr.btnOff + 2 ≤ c.gtr.len && c.gtr.tiltOff < c.gtr.len && c.gtr.whammyOff < c.gtr.len
    && c.gtr.pickupOff < c.gtr.len && c.gtr.upperOff < c.gtr.len && c.gtr.lowerOff < c.gtr.len
    && c.gtr.green < 8 && c.gtr.red < 8 && c.gtr.yellow < 8 && c.gtr.blue < 8 && c.gtr.orange < 8
    && c.gtr.lowerFlagBit < 16
    && c.drm.btnOff + 2 ≤ c.drm.len && c.drm.padsOff + 2 ≤ c.drm.len && c.drm.cymsOff + 2 ≤ c.drm.len
    && c.drm.padShift.shiftsOk && c.drm.cymShift.shiftsOk
    && c.ghl.btnOff + 2 ≤ c.ghl.len && c.ghl.fretOff < c.ghl.len && c.ghl.fretBit.length == 6
    && c.ghl.fretBit.all (· < 8) && c.ghl.btn.ok && c.ghl.strumOff < c.ghl.len && c.ghl.whammyOff < c.ghl.len
    && c.pad.btnOff + 2 ≤ c.pad.len && c.pad.ltOff + 2 ≤ c.pad.len && c.pad.rtOff + 2 ≤ c.pad.len
    && c.pad.lxOff + 2 ≤ c.pad.len && c.pad.lyOff + 2 ≤ c.pad.len && c.pad.rxOff + 2 ≤ c.pad.len
    && c.pad.ryOff + 2 ≤ c.pad.len

/-- The constraints on `GUID_TABLE` (rule R5, 00_scope.md section 4.1). -/
def Cfg.guidTableOk (c : Cfg) : Bool :=
  c.guidTable.length ≤ c.guidTableN && decide (c.guidTable.map (·.guid)).Nodup
    && c.guidTable.all (fun e => e.guid.length == c.dsc.guidBytes
        && (e.kind == .guitar || e.kind == .drums || e.kind == .sixFret
            || (e.kind == .gamepad && c.hasGamepad) || (e.kind == .legacyDemux && c.hasLegacy)))

/-- The steps of a plateau table stand in rising order of their bytes, with values that do not fall (rule R6: "monotone
non-decreasing"). -/
def plateauRises : List (Nat × I16) → Bool
  | [] => true
  | [_] => true
  | a :: b :: rest => a.1 < b.1 && a.2.toInt ≤ b.2.toInt && plateauRises (b :: rest)

/-- The constraints on the plateau function (rule R6). -/
def Cfg.plateauOk (c : Cfg) : Bool :=
  (c.plateau.head?.map Prod.fst) == some 0 && plateauRises c.plateau

/-- The constraints on `FB_LAYOUTS` (00_scope.md section 4.1, rule R280). DESIGN CHOICE (notes/assumptions/25.md): a list
that names Gamepad while `HAS_GAMEPAD` = 0 is ill-formed. The spec forbids that of `GUID_TABLE` entries only and gives no
result for such a list. -/
def Cfg.fbOk (c : Cfg) : Bool :=
  c.fbLayouts.all (fun k => k == .guitar || k == .drums || k == .sixFret || (k == .gamepad && c.hasGamepad))
    && decide (c.fbLayouts.map c.reportLen).Nodup

/-- A well-formed configuration: every constraint 00_scope.md section 4 and rule R300 state, and those that the model adds
(notes/assumptions/25.md, notes/assumptions/27.md). -/
def Cfg.wf (c : Cfg) : Bool :=
  1 ≤ c.nSess && 3 + 2 * c.varintMaxBytes ≤ c.frameMax && 1 ≤ c.chunkBufBytes && c.chunkBufBytes < 2 ^ c.lenW
    && 4 ≤ c.varintMaxBytes && 1 ≤ c.dsc.maxGuids && 1 ≤ c.dsc.maxNameLen
    && c.hdr.ok && decide c.cmd.list.Nodup && c.layoutsOk && c.guidTableOk && c.plateauOk && c.fbOk
    && (match c.lgy with | none => true | some l => l.ok c.cmd.list)

/-- The bytes `b, b+1, ..., b+15`: the shape of the placeholder identifiers of rule R5. -/
def placeholderGuid (b : Byte) : List Byte := (List.range 16).map (fun i => b + BitVec.ofNat 8 i)

/-- The reference configuration (00_scope.md section 4). Its values are the spec's, with the grounds S, G and C logged
there. DESIGN CHOICE (notes/assumptions/24.md): the `axis_mode` and `pickup_mode` of the entries `T_DRM` and `T_GHL` are
Full and Continuous. Rule R5 prints none for them ("have meaning only for kind Guitar"); construction stores them in
`mapper`, where no rule reads them. -/
def refCfg : Cfg where
  nSess := 8
  frameMax := 4096
  chunkBufBytes := 4096
  varintMaxBytes := 4
  guidTable := [⟨placeholderGuid 0xA0, .guitar, .full, .continuous⟩, ⟨placeholderGuid 0xE0, .guitar, .half, .plateau⟩,
    ⟨placeholderGuid 0xB0, .drums, .full, .continuous⟩, ⟨placeholderGuid 0xC0, .sixFret, .full, .continuous⟩]
  guidTableN := 16
  hasGamepad := false
  fbLayouts := [.guitar, .drums]
  guideEn := []
  plateau := [(0x00, 0x8000#16), (0x10, 0xC000#16), (0x20, 0x0000#16), (0x30, 0x4000#16), (0x40, 0x7FFF#16)]
  hdr := { cmdOff := 0, flagsOff := 1, seqOff := 2, lenOff := 3, flagNeedsAck := 4, flagSystem := 5,
           flagChunkStart := 6, flagChunk := 7 }
  cmd := { ack := 0x01, arrival := 0x02, descriptor := 0x04, auth := 0x06, keystroke := 0x07, serial := 0x1E,
           input := 0x20, ghlInput := 0x21 }
  arr := { minLen := 12, vidOff := 8, pidOff := 10 }
  dsc := { maxGuids := 16, maxNames := 8, maxNameLen := 64, hdrMin := 16, hlenOff := 0, dlenOff := 14, nEnt := 8,
           entNames := 5, entGuids := 6, strlenW := 2, guidBytes := 16 }
  key := { len := 2, flagsOff := 0, pressedBit := 0, codeOff := 1, guide := 0x5B }
  btn := { menu := 2, options := 3, dpadUp := 8, dpadDown := 9, dpadLeft := 10, dpadRight := 11 }
  gtr := { len := 10, btnOff := 0, tiltOff := 2, whammyOff := 3, pickupOff := 4, upperOff := 5, lowerOff := 6,
           green := 0, red := 1, yellow := 2, blue := 3, orange := 4, lowerFlagBit := 14 }
  drm := { len := 6, btnOff := 0, padsOff := 2, cymsOff := 4,
           padShift := { red := 4, yellow := 0, blue := 12, green := 8 },
           cymShift := { red := 8, yellow := 4, blue := 0, green := 12 }, negMask := 0 }
  ghl := { len := 8, btnOff := 1, fretOff := 0, fretBit := [0, 1, 2, 3, 4, 5],
           btn := { menu := 0, options := 1, dpadUp := 4, dpadDown := 5, dpadLeft := 6, dpadRight := 7 },
           strumOff := 4, strumCenter := 0x80, whammyOff := 6, whammyRest := 0x80 }
  pad := { len := 14, btnOff := 0, ltOff := 2, rtOff := 4, lxOff := 6, lyOff := 8, rxOff := 10, ryOff := 12 }
  lgy := none

/-- What of the machine selects a row beside the bits of the frame (the table's column `condition`): the configuration,
the declared total of the slot's open chunk sequence (`none` when `cstate` = Idle) and the slot's `mapper.kind`
(30_encoding.md rules R96, R98). -/
structure Ctx where
  cfg : Cfg
  openTotal : Option Nat
  kind : Kind
  deriving DecidableEq, Repr

/-- The reference configuration with a slot right after its allocation: no open sequence, no mapper. -/
def Ctx.fresh (c : Cfg) : Ctx := { cfg := c, openTotal := none, kind := .none }

namespace Config

/-- FREE VALUE. The 32-bit `info` of a result record whose value by rule R322 does not fit 32 bits. The spec gives the
field's width (rule R321) and relies on no silent truncation (00_scope.md section 6), so it states no value here. -/
opaque infoOverflow (value : Nat) : BitVec 32

/-- FREE VALUE. `LAST_SLOT[6:0]` for a slot number above 127 (rule R41 gives the field 7 bits; `NSESS` has no upper
bound). -/
opaque slotNumberOverflow (slot : Nat) : BitVec 7

/-- FREE VALUE. The six-fret whammy axis for a rest value other than 0x80: "for any other rest value it is OPEN" (rule
R270, 93_implementation_defined.md U8). -/
opaque ghlWhammyOpen (rest w : Byte) : I16

/-- FREE VALUE. `declared_len` and `received_len` of a slot right after its allocation: "unspecified" (rule R46). `draw`
is the machine's draw counter. -/
opaque allocatedLen (draw which : Nat) : Nat

/-- FREE VALUE. A byte of the chunk buffer of a slot that nothing has written since power-on (rules R29, R372: "a model
may therefore leave CB's initial contents arbitrary"). -/
opaque chunkBufPowerOn (slot address : Nat) : Byte

end Config

end Sys2Proof
end

