-- ==== Sys2Proof/WellFormed.lean ====
section
/-! DEFINITION. Well-formed instructions: the selection conditions of the opcode table's rows, written from
30_encoding.md rules R95 to R99 and the table's columns `match`, `mask` and `condition`. A row's condition may name the
slot's chunk state or mapper kind: those stand in `Ctx`. -/

namespace Sys2Proof

/-- The frame is chunked: `chunk_start` or `chunk_continuation` is set (30_encoding.md rule R95). -/
def HdrCfg.chunked (c : HdrCfg) (flags : Byte) : Bool := flags.getLsbD c.flagChunkStart || flags.getLsbD c.flagChunk

/-- `h.chunk_start` (10_state.md rule R23). -/
def HdrCfg.chunkStart (c : HdrCfg) (flags : Byte) : Bool := flags.getLsbD c.flagChunkStart

/-- A value a LEB128 field can carry (30_encoding.md rule R94). -/
def Cfg.lebFits (c : Cfg) (v : Nat) : Bool := v < 2 ^ c.lenW

/-- A complete message as an unchunked frame carries it: no chunk bit, a length the length field can carry. -/
def Message.wf (c : Cfg) (m : Message) : Bool := !c.hdr.chunked m.flags && c.lebFits m.data.length

/-- Level 2, last row: a command id none of the other rows names (rule R97). -/
def CmdCfg.isOther (c : CmdCfg) (cmd : Byte) : Bool := !c.list.contains cmd

/-- `INPUT.FB` selects this message: the slot's mapper is a Fallback and the command is no guide key event (rule R240);
whether a layout of `FB_LAYOUTS` fits is decided by rule R280 inside the row. -/
def Ctx.selFb (x : Ctx) (m : Message) : Bool := x.kind == .fallback && m.cmd != x.cfg.cmd.keystroke

/-- `KEYSTROKE.GUIDE` selects this message (rule R240, second line). -/
def Ctx.selGuide (x : Ctx) (m : Message) : Bool := x.kind != .legacyDemux && m.cmd == x.cfg.cmd.keystroke

/-- `INPUT.GTR` selects this message (rule R98). -/
def Ctx.selGtr (x : Ctx) (m : Message) : Bool :=
  x.kind == .guitar && m.cmd == x.cfg.cmd.input && m.data.length == x.cfg.gtr.len

/-- `INPUT.DRM` selects this message (rule R98). -/
def Ctx.selDrm (x : Ctx) (m : Message) : Bool :=
  x.kind == .drums && m.cmd == x.cfg.cmd.input && m.data.length == x.cfg.drm.len

/-- `GHLINPUT.GHL` selects this message (rule R98). -/
def Ctx.selGhl (x : Ctx) (m : Message) : Bool :=
  x.kind == .sixFret && m.cmd == x.cfg.cmd.ghlInput && m.data.length == x.cfg.ghl.len

/-- `INPUT.PAD` selects this message (rules R98, R275: present only if `HAS_GAMEPAD` = 1). -/
def Ctx.selPad (x : Ctx) (m : Message) : Bool :=
  x.cfg.hasGamepad && x.kind == .gamepad && m.cmd == x.cfg.cmd.input && m.data.length == x.cfg.pad.len

/-- An `LGY.*` row with the command id that `sel` picks selects this message (rules R240, R302). -/
def Ctx.selLgy (x : Ctx) (m : Message) (sel : LgyCfg → Byte) : Bool :=
  x.kind == .legacyDemux && (match x.cfg.lgy with | none => false | some l => m.cmd == sel l)

/-- No other level-3 row selects this message (the table's row NOOP, rule R241). -/
def Ctx.selNoop (x : Ctx) (m : Message) : Bool :=
  !x.selLgy m (·.cmdConnect) && !x.selLgy m (·.cmdDisconnect) && !x.selLgy m (·.cmdInput) && !x.selGuide m
    && !x.selGtr m && !x.selDrm m && !x.selGhl m && !x.selPad m && !x.selFb m

/-- A well-formed instruction in the context `x`: the fields its encoding fixes have their values, its numbers fit their
fields, and the row is the one the table selects. -/
def Instr.wf (x : Ctx) : Instr → Bool
  | .msg h p => !x.cfg.hdr.chunked h.flags && x.cfg.lebFits p.length
  | .chkNop h => x.cfg.hdr.chunked h.flags
  | .chkS h t p => x.cfg.hdr.chunkStart h.flags && x.cfg.lebFits t && x.cfg.lebFits p.length && !(t == 0 && p.isEmpty)
  | .chkE h t => x.cfg.hdr.chunked h.flags && !x.cfg.hdr.chunkStart h.flags && x.cfg.lebFits t && t != 0
      && x.openTotal == some t
  | .chkD h t p => x.cfg.hdr.chunked h.flags && !x.cfg.hdr.chunkStart h.flags && x.cfg.lebFits t
      && x.cfg.lebFits p.length && !(t == 0 && p.isEmpty) && !(x.openTotal == some t && p.isEmpty)
  | .ack m => m.wf x.cfg && m.cmd == x.cfg.cmd.ack
  | .arrival m => m.wf x.cfg && m.cmd == x.cfg.cmd.arrival
  | .descriptor m => m.wf x.cfg && m.cmd == x.cfg.cmd.descriptor
  | .auth m => m.wf x.cfg && m.cmd == x.cfg.cmd.auth
  | .keystroke m => m.wf x.cfg && m.cmd == x.cfg.cmd.keystroke
  | .serial m => m.wf x.cfg && m.cmd == x.cfg.cmd.serial
  | .input m => m.wf x.cfg && m.cmd == x.cfg.cmd.input
  | .ghlInput m => m.wf x.cfg && m.cmd == x.cfg.cmd.ghlInput
  | .other m => m.wf x.cfg && x.cfg.cmd.isOther m.cmd
  | .inputGtr m => m.wf x.cfg && x.selGtr m
  | .inputDrm m => m.wf x.cfg && x.selDrm m
  | .ghlInputGhl m => m.wf x.cfg && x.selGhl m
  | .inputPad m => m.wf x.cfg && x.selPad m
  | .inputFb m => m.wf x.cfg && x.selFb m
  | .keystrokeGuide m => m.wf x.cfg && x.selGuide m
  | .lgyConnect m => m.wf x.cfg && x.selLgy m (·.cmdConnect)
  | .lgyDisconnect m => m.wf x.cfg && x.selLgy m (·.cmdDisconnect)
  | .lgyInput m => m.wf x.cfg && x.selLgy m (·.cmdInput)
  | .noop m => m.wf x.cfg && x.selNoop m
  | .reset => true
  | .close _ => true
  | .sinkLost _ => true
  | .csrRead _ => true
  | .csrW1c _ _ => true

end Sys2Proof
end

