-- ==== Sys2Proof/Decode.lean ====
section
/-! DEFINITION. The decoder of the two ports, total on any bytes and rejecting by name, and the encoder. The header
decoder HDR is 40_header_decoder.md rules R132 to R136; the choice of a row is 30_encoding.md rules R96 to R99 and
45_report_extractors.md rule R240; the encoder is the assembler of rule R110. -/

namespace Sys2Proof

/-- The byte at offset `a` of a space held as a byte string, offset 0 first (10_state.md rule R45). Every rule checks its
bounds before it reads (20_memory.md rule R68); outside the space, which only a configuration that breaks its constraints
can reach (93_implementation_defined.md U20), the answer is 0. -/
def byteAt (sp : List Byte) (a : Nat) : Byte := sp.getD a 0

/-- `LE16(SP:a)`: the byte at `a` plus 256 times the byte at `a+1` (20_memory.md rule R61). -/
def le16 (sp : List Byte) (a : Nat) : Half := byteAt sp (a + 1) ++ byteAt sp a

/-- `MemRead(SP:a, n)`: the `n` bytes at offsets `a` to `a+n-1`. -/
def slice (sp : List Byte) (a n : Nat) : List Byte := (sp.drop a).take n

/-- Why the decoder rejects: the Invalid causes of HDR with the value each reports (60_exceptions.md rule R322), and the
three causes of asking for a level the input does not have. -/
inductive Reject where
  /-- rule R132: the frame is shorter than the prefix; its length. Safe: the machine goes on with `INV_HDR_SHORT`. -/
  | hdrShort (len : Nat)
  /-- rule R133: the frame ends inside a LEB128 field; the field and the cursor. -/
  | varintTrunc (which pos : Nat)
  /-- rule R133: a LEB128 field longer than `VARINT_MAX_BYTES`; the field and the cursor. -/
  | varintLong (which pos : Nat)
  /-- rule R136: the frame is shorter than header plus `data_length`; the payload bytes present. -/
  | payloadShort (present : Nat)
  /-- A chunked frame holds no complete message (rule R150), so it names no row of level 2 or 3. -/
  | notAMessage
  /-- Rule R340: an operation number above 4. -/
  | opUnassigned (op : Nat)
  /-- A frame where a control operation is asked for, or the other way round. -/
  | wrongPort
  deriving DecidableEq, Repr

/-- What `read_leb` answers (rule R133): a value with the cursor after it, or a rejection. -/
inductive LebRes where
  | value (v pos : Nat)
  | bad (r : Reject)
  deriving DecidableEq, Repr

/-- The loop of `read_leb` (rule R133): `fuel` bytes may still be read, `i` were read, `v` is the value so far. -/
def readLebFrom (fr : List Byte) (which : Nat) : (fuel i pos v : Nat) → LebRes
  | 0, _, pos, _ => .bad (.varintLong which pos)
  | fuel + 1, i, pos, v =>
    match fr[pos]? with
    | none => .bad (.varintTrunc which pos)
    | some b =>
      let v' := v + (b &&& 0x7F#8).toNat * 2 ^ (7 * i)
      if b.getLsbD 7 then readLebFrom fr which fuel (i + 1) (pos + 1) v' else .value v' (pos + 1)

/-- `read_leb(which)` at the cursor `pos` (rule R133). -/
def readLeb (c : Cfg) (fr : List Byte) (which pos : Nat) : LebRes := readLebFrom fr which c.varintMaxBytes 0 pos 0

/-- `HDR.PREFIX` (rule R132). -/
def readPrefix (c : Cfg) (fr : List Byte) : Option Hdr :=
  if fr.length < 3 then none
  else some { cmd := byteAt fr c.hdr.cmdOff, flags := byteAt fr c.hdr.flagsOff, seq := byteAt fr c.hdr.seqOff }

/-- A decoded header with its payload: `h`, `h.len`, `h.idx` (`none` when the frame is not chunked, where the spec leaves
it undefined and unread, 93_implementation_defined.md U3), `h.hsize`, the payload, and whether bytes follow it. -/
structure Parsed where
  hdr : Hdr
  len : Nat
  idx : Option Nat
  hsize : Nat
  payload : List Byte
  trailing : Bool
  deriving DecidableEq, Repr

/-- What HDR and the payload extraction answer; a rejection keeps the prefix if it was read. -/
inductive ParseRes where
  | ok (p : Parsed)
  | bad (h : Option Hdr) (r : Reject)
  deriving DecidableEq, Repr

/-- Payload extraction (rule R136) at the end of the header, `pos` = `h.hsize`. -/
def extractPayload (fr : List Byte) (h : Hdr) (len : Nat) (idx : Option Nat) (pos : Nat) : ParseRes :=
  if pos + len > fr.length then .bad (some h) (.payloadShort (fr.length - pos))
  else .ok { hdr := h, len := len, idx := idx, hsize := pos, payload := slice fr pos len,
             trailing := decide (pos + len < fr.length) }

/-- HDR and payload extraction: rules R132, R133, R134, R136 in this order. -/
def parseFrame (c : Cfg) (fr : List Byte) : ParseRes :=
  match readPrefix c fr with
  | none => .bad none (.hdrShort fr.length)
  | some h =>
    match readLeb c fr 0 3 with
    | .bad r => .bad (some h) r
    | .value len pos =>
      if c.hdr.chunked h.flags then
        match readLeb c fr 1 pos with
        | .bad r => .bad (some h) r
        | .value idx pos' => extractPayload fr h len (some idx) pos'
      else extractPayload fr h len none pos

/-- Level 1 (rule R96): the row of a decoded frame, first matching row first. -/
def decodeFraming (x : Ctx) (p : Parsed) : Instr :=
  match p.idx with
  | none => .msg p.hdr p.payload
  | some t =>
    if t = 0 ∧ p.len = 0 then .chkNop p.hdr
    else if x.cfg.hdr.chunkStart p.hdr.flags then .chkS p.hdr t p.payload
    else if x.openTotal = some t ∧ p.len = 0 then .chkE p.hdr t
    else .chkD p.hdr t p.payload

/-- Level 2 (rules R97, R180): the row of a complete message, by its command id alone. -/
def decodeMessage (c : Cfg) (m : Message) : Instr :=
  if m.cmd = c.cmd.arrival then .arrival m
  else if m.cmd = c.cmd.descriptor then .descriptor m
  else if m.cmd = c.cmd.ack then .ack m
  else if m.cmd = c.cmd.auth then .auth m
  else if m.cmd = c.cmd.serial then .serial m
  else if m.cmd = c.cmd.keystroke then .keystroke m
  else if m.cmd = c.cmd.input then .input m
  else if m.cmd = c.cmd.ghlInput then .ghlInput m
  else .other m

/-- Level 3 for a LegacyDemux mapper (rule R302, first line). -/
def decodeLegacy (l : LgyCfg) (m : Message) : Instr :=
  if m.cmd = l.cmdConnect then .lgyConnect m
  else if m.cmd = l.cmdDisconnect then .lgyDisconnect m
  else if m.cmd = l.cmdInput then .lgyInput m
  else .noop m

/-- Level 3 (rules R98, R240): the row of a forwarded message, the first line that applies. -/
def decodeReport (c : Cfg) (k : Kind) (m : Message) : Instr :=
  if k = .legacyDemux then (match c.lgy with | none => .noop m | some l => decodeLegacy l m)
  else if m.cmd = c.cmd.keystroke then .keystrokeGuide m
  else if k = .guitar ∧ m.cmd = c.cmd.input ∧ m.data.length = c.gtr.len then .inputGtr m
  else if k = .drums ∧ m.cmd = c.cmd.input ∧ m.data.length = c.drm.len then .inputDrm m
  else if k = .sixFret ∧ m.cmd = c.cmd.ghlInput ∧ m.data.length = c.ghl.len then .ghlInputGhl m
  else if c.hasGamepad = true ∧ k = .gamepad ∧ m.cmd = c.cmd.input ∧ m.data.length = c.pad.len then .inputPad m
  else if k = .fallback then .inputFb m
  else .noop m

/-- The control port (rules R99, R340): operation numbers 0 to 4; a higher one is none of the table's rows. -/
def decodeControl (op : Nat) (key : Key) (n : Nat) (mask : BitVec 16) : Option Instr :=
  match op with
  | 0 => some .reset
  | 1 => some (.close key)
  | 2 => some (.sinkLost key)
  | 3 => some (.csrRead n)
  | 4 => some (.csrW1c n mask)
  | _ => none

/-- What the decoder answers: an instruction, or a rejection by name. -/
inductive Decoded where
  | ok (i : Instr)
  | bad (r : Reject)
  deriving DecidableEq, Repr

/-- The complete message an unchunked frame carries (rule R137). -/
def Parsed.message (p : Parsed) : Message :=
  { cmd := p.hdr.cmd, flags := p.hdr.flags, seq := p.hdr.seq, data := p.payload }

/-- The decoder: the row of level `l` that the input selects in the context `x`. A level 2 or 3 row of a frame exists
when the frame is an unchunked message. -/
def decode (x : Ctx) (l : Level) (w : Wire) : Decoded :=
  match l, w with
  | .control, .control op key n mask =>
    match decodeControl op key n mask with
    | some i => .ok i
    | none => .bad (.opUnassigned op)
  | .control, .frame _ => .bad .wrongPort
  | _, .control .. => .bad .wrongPort
  | l, .frame fr =>
    match parseFrame x.cfg fr with
    | .bad _ r => .bad r
    | .ok p =>
      match l, p.idx with
      | .dispatch, none => .ok (decodeMessage x.cfg p.message)
      | .report, none => .ok (decodeReport x.cfg x.kind p.message)
      | .dispatch, some _ => .bad .notAMessage
      | .report, some _ => .bad .notAMessage
      | _, _ => .ok (decodeFraming x p)

/-! ## The encoder -/

/-- The loop of `leb`: at most `fuel + 1` bytes. -/
def lebFrom : (fuel v : Nat) → List Byte
  | 0, v => [BitVec.ofNat 8 v]
  | fuel + 1, v =>
    if v < 128 then [BitVec.ofNat 8 v] else BitVec.ofNat 8 (v % 128 + 128) :: lebFrom fuel (v / 128)

/-- `leb(v)`: the minimal LEB128 encoding of `v` (rules R94, R110). -/
def leb (v : Nat) : List Byte := lebFrom v v

/-- The three prefix bytes at their offsets (rules R91, R132). -/
def encodePrefix (c : Cfg) (h : Hdr) : List Byte :=
  (List.range 3).map fun a =>
    if a = c.hdr.cmdOff then h.cmd else if a = c.hdr.flagsOff then h.flags else h.seq

/-- A frame of format H (rule R91). -/
def encodeH (c : Cfg) (h : Hdr) (p : List Byte) : Wire := .frame (encodePrefix c h ++ leb p.length ++ p)

/-- A frame of format HC (rule R92). -/
def encodeHC (c : Cfg) (h : Hdr) (x : Nat) (p : List Byte) : Wire :=
  .frame (encodePrefix c h ++ leb p.length ++ leb x ++ p)

/-- A complete message as one unchunked frame (the line `MSG` of rule R110). -/
def encodeMessage (c : Cfg) (m : Message) : Wire := encodeH c { cmd := m.cmd, flags := m.flags, seq := m.seq } m.data

/-- The encoder: the frame or the control operation that stands for an instruction (rules R91, R92, R99, R110). -/
def encode (c : Cfg) : Instr → Wire
  | .msg h p => encodeH c h p
  | .chkNop h => encodeHC c h 0 []
  | .chkS h x p => encodeHC c h x p
  | .chkE h x => encodeHC c h x []
  | .chkD h x p => encodeHC c h x p
  | .ack m => encodeMessage c m
  | .arrival m => encodeMessage c m
  | .descriptor m => encodeMessage c m
  | .auth m => encodeMessage c m
  | .keystroke m => encodeMessage c m
  | .serial m => encodeMessage c m
  | .input m => encodeMessage c m
  | .ghlInput m => encodeMessage c m
  | .other m => encodeMessage c m
  | .inputGtr m => encodeMessage c m
  | .inputDrm m => encodeMessage c m
  | .ghlInputGhl m => encodeMessage c m
  | .inputPad m => encodeMessage c m
  | .inputFb m => encodeMessage c m
  | .keystrokeGuide m => encodeMessage c m
  | .lgyConnect m => encodeMessage c m
  | .lgyDisconnect m => encodeMessage c m
  | .lgyInput m => encodeMessage c m
  | .noop m => encodeMessage c m
  | .reset => .control 0 0 0 0
  | .close k => .control 1 k 0 0
  | .sinkLost k => .control 2 k 0 0
  | .csrRead n => .control 3 0 n 0
  | .csrW1c n mask => .control 4 0 n mask

/-! ## The word of an opcode-table row -/

/-- The first `k` bytes of `w`, the least significant first: the order in which the table numbers a frame's bits. -/
def wordBytes : (k w : Nat) → List Byte
  | 0, _ => []
  | k + 1, w => BitVec.ofNat 8 w :: wordBytes k (w / 256)

/-- The input that a table word stands for. The spec's table has two words: `op`, the control port's, of 3 bits, and `W`,
the first three bytes of a frame. A word of at most one byte that is an assigned operation number is `op`; any other word
is the start of a frame, whose remaining header bytes (to three prefix bytes, a length field and, for a chunked frame, an
index field) are 0, so that it has an empty payload and no trailing byte. -/
def tableWire (nbits w : Nat) : Wire :=
  if nbits ≤ 8 ∧ w ≤ 4 then .control w 0 0 0
  else
    let given := wordBytes ((nbits + 7) / 8) w
    let header := given ++ List.replicate (3 - given.length) 0
    let size := if refCfg.hdr.chunked (byteAt header refCfg.hdr.flagsOff) then 5 else 4
    .frame (header ++ List.replicate (size - header.length) 0)

/-- The level that a table word spells: its row's selector ends inside the first byte (control operations, command ids),
inside the flags byte (framing), or the word is the whole prefix, whose last row chosen by bits alone is the one of the
command id. A chunked frame has a framing row only. -/
def decodeTableWord (nbits w : Nat) : Option Instr :=
  let x := Ctx.fresh refCfg
  let level : Level :=
    match tableWire nbits w with
    | .control .. => .control
    | .frame fr =>
      if (8 < nbits ∧ nbits ≤ 16) ∨ refCfg.hdr.chunked (byteAt fr refCfg.hdr.flagsOff) then .framing else .dispatch
  match decode x level (tableWire nbits w) with
  | .ok i => some i
  | .bad _ => none

end Sys2Proof
end

