-- ==== Sys2Proof/Machine/State.lean ====
section
/-! DEFINITION. The state of RB4IM-FE (10_state.md), the output ports (60_exceptions.md rules R321, R346, R347), the
working registers of a step in progress (rule R23), the queue of inputs the two ports have still to take (00_scope.md
rule R7), and the state after global reset (rule R46). -/

namespace Sys2Proof.Machine

/-- Memory that is written sparsely: (address, byte) pairs, addresses strictly rising. An unlisted address holds no value
of the model's (`Memory.read` answers `none`). The chunk buffer `CB` (rule R29) and the table `seq_valid`/`seq_last`
(rule R30: a map from command ids to bytes, unlisted = `seq_valid` is 0) are such memories. -/
abbrev Memory := List Host.Cell

/-- `cstate` (10_state.md rule R28). -/
inductive CState where
  | idle | accum
  deriving DecidableEq, Repr, Inhabited

/-- `mapper` (10_state.md rule R27). -/
structure Mapper where
  kind : Kind
  axisMode : AxisMode
  pickupMode : PickupMode
  deriving DecidableEq, Repr, Inhabited

/-- The output holding record `out` (10_state.md rule R37), field by field. `padAxis` are the lanes 0 to 3 of `axis` and
`cymAxis` the lanes 4 to 7, each in the order red, yellow, blue, green. -/
structure Out where
  tag : Kind
  buttonsRaw : Half
  menu : Bool
  options : Bool
  dpadUp : Bool
  dpadDown : Bool
  dpadLeft : Bool
  dpadRight : Bool
  guide : Bool
  green : Bool
  red : Bool
  yellow : Bool
  blue : Bool
  orange : Bool
  lowerFlag : Bool
  tilt : I16
  whammy : I16
  pickup : I16
  tiltRaw : Byte
  whammyRaw : Byte
  pickupRaw : Byte
  pad : Four (BitVec 4)
  cym : Four (BitVec 4)
  padAxis : Four I16
  cymAxis : Four I16
  fret6 : List Bool
  strum : I16
  lt : Half
  rt : Half
  lx : I16
  ly : I16
  rx : I16
  ry : I16
  deriving DecidableEq, Repr, Inhabited

/-- Every field 0 / false, `tag` None (rules R37, R46). -/
def Out.zero : Out where
  tag := .none
  buttonsRaw := 0
  menu := false
  options := false
  dpadUp := false
  dpadDown := false
  dpadLeft := false
  dpadRight := false
  guide := false
  green := false
  red := false
  yellow := false
  blue := false
  orange := false
  lowerFlag := false
  tilt := 0
  whammy := 0
  pickup := 0
  tiltRaw := 0
  whammyRaw := 0
  pickupRaw := 0
  pad := ⟨0, 0, 0, 0⟩
  cym := ⟨0, 0, 0, 0⟩
  padAxis := ⟨0, 0, 0, 0⟩
  cymAxis := ⟨0, 0, 0, 0⟩
  fret6 := List.replicate 6 false
  strum := 0
  lt := 0
  rt := 0
  lx := 0
  ly := 0
  rx := 0
  ry := 0

/-- `child[u]` of a LegacyDemux mapper (10_state.md rule R38). -/
structure Child where
  kind : Kind
  prevMask : BitVec 2
  latched : BitVec 2
  out : Out
  deriving DecidableEq, Repr, Inhabited

/-- A session slot (10_state.md rules R22, R25 to R31, R37, R38). `guid_cnt` and `name_cnt` are the lengths of `guids` and
`names`; a name's stored length is its list's length. `children` has `LGY_NUSERS` entries when the legacy demultiplexer
exists, else none. -/
structure Slot where
  valid : Bool
  tag : Key
  vid : Half
  pid : Half
  arrivalSeen : Bool
  descSeen : Bool
  guids : List (List Byte)
  names : List (List Byte)
  descPartial : Bool
  mapper : Mapper
  fbWarned : Bool
  cstate : CState
  declaredLen : Nat
  receivedLen : Nat
  cb : Memory
  seqTab : Memory
  prevMask : BitVec 2
  latched : BitVec 2
  out : Out
  children : List Child
  deriving DecidableEq, Repr, Inhabited

/-- The result codes (60_exceptions.md rule R322); "codes not in the table are never produced". -/
inductive Code where
  | okReport | okNoopChunk | okDuplicate | okIgnored | okArrival | okDescriptor | okKey | okLgy | okControl
  | pending
  | invHdrShort | invVarintTrunc | invVarintLong | invPayloadShort | invFrameOversize
  | invChunkNoStart | invChunkRestart | invChunkOrder | invChunkBounds | invChunkCapacity
  | invDescHeader | invArrivalShort
  | unsNoSlot | unsNoSink | unsNotReady
  | disconnected
  deriving DecidableEq, Repr

/-- The result record of a step (60_exceptions.md rule R321). -/
structure Result where
  slot : Option Nat
  key : Key
  code : Code
  hdrValid : Bool
  cmd : Byte
  seq : Byte
  flags : Byte
  info : BitVec 32
  warn : BitVec 16
  deriving DecidableEq, Repr

/-- An output event (60_exceptions.md rule R347, 46_legacy_demux.md rule R301); `user` is `none` for a slot's own handle. -/
inductive Event where
  | sinkClose (slot : Nat) (user : Option Nat)
  | sinkOpen (slot : Nat) (user : Option Nat) (kind : Kind)
  | requestConnectedDevices (slot : Nat)
  | sinkSubmit (slot : Nat) (user : Option Nat) (out : Out)
  deriving DecidableEq, Repr

/-- One step's input (00_scope.md rule R7): a frame with its key and the sink's two answers for the step's slot, which are
inputs of the step and no state (10_state.md rule R43), or a control operation. -/
inductive Input where
  | deliver (key : Key) (bytes : List Byte) (openOk ready : Bool)
  | control (op : Nat) (key : Key) (n : Nat) (mask : BitVec 16)
  deriving DecidableEq, Repr

/-- How far the step in progress has come: ended, a complete message that passed DDP and waits for its level-2 row, or a
forwarded message that waits for its level-3 row (40_header_decoder.md rule R130, steps 5 to 7). -/
inductive Stage where
  | done
  | message (m : Message)
  | report (m : Message)
  deriving DecidableEq, Repr

/-- The working registers of the step in progress (10_state.md rule R23), which have no value between steps: the step's
key, the selected slot, the header prefix once it is decoded, the sink's answers, the `EVFLAGS` bits this step raised
(rule R321 `warn`), and the stage. `h.len`, `h.idx`, `h.hsize` and `pos` are local to the decoder. -/
structure Work where
  key : Key
  sel : Option Nat
  hdr : Option Hdr
  openOk : Bool
  ready : Bool
  warn : BitVec 16
  stage : Stage
  deriving DecidableEq, Repr

/-- The working registers between steps. -/
def Work.idle : Work :=
  { key := 0, sel := none, hdr := none, openOk := false, ready := false, warn := 0, stage := .done }

/-- The state. `cfg` is the elaboration-time record: no step writes it (70_reset_and_hazards.md rule R363). `inputs` are
the operations the two ports have still to take, in the one total order of steps (20_memory.md rule R70). `result`,
`events` and `readData` are what the last step put on the output ports; `readData` is the control port's read-data output
(rule R346). `draws` is the model's own counter: it numbers the free values drawn so far. -/
structure State where
  cfg : Cfg
  slots : List Slot
  evflags : BitVec 16
  lastCode : BitVec 8
  lastInfo : BitVec 32
  lastSlot : BitVec 8
  work : Work
  inputs : List Input
  result : Option Result
  events : List Event
  readData : Option Nat
  draws : Nat
  deriving DecidableEq, Repr

/-- Faults: none. "No condition in this engine should propagate as an unhandled fault"; the step function is total and
"never faults the block" (00_scope.md rule R8). Every error of the spec is a result record and a next state. -/
inductive Fault where
  deriving DecidableEq, Repr

/-- Refusals. -/
inductive Refusal where
  /-- Raised by `exec`'s arms for an instruction without a meaning; no arm raises it now. Safe. -/
  | notModelled (mnemonic : String)
  deriving DecidableEq, Repr

/-- A slot after global reset (rule R46, first column): `valid` = 0. The spec leaves every other field unspecified and
never reads it before it is written; the values here are DESIGN CHOICES named in notes/assumptions/3.md. -/
def Slot.reset : Slot where
  valid := false
  tag := 0
  vid := 0
  pid := 0
  arrivalSeen := false
  descSeen := false
  guids := []
  names := []
  descPartial := false
  mapper := { kind := .none, axisMode := .full, pickupMode := .continuous }
  fbWarned := false
  cstate := .idle
  declaredLen := 0
  receivedLen := 0
  cb := []
  seqTab := []
  prevMask := 0
  latched := 0
  out := Out.zero
  children := []

/-- A child after global reset, a DESIGN CHOICE as in `Slot.reset` (notes/assumptions/3.md); also what a user index
outside the table, which no rule reads, reads as (notes/assumptions/12.md). -/
def Child.reset : Child where
  kind := .none
  prevMask := 0
  latched := 0
  out := Out.zero

/-- A slot after global reset under the configuration `c`: `LGY_NUSERS` children where the legacy demultiplexer exists
(rule R38), else as `Slot.reset`. -/
def Slot.resetFor (c : Cfg) : Slot := { Slot.reset with children := List.replicate c.lgyUsers Child.reset }

/-- The state after the reset pin (10_state.md rule R46, 70_reset_and_hazards.md rule R361) of the block elaborated with
the configuration `c` ("the model takes `Cfg` as an argument", 00_scope.md rule R4). -/
def State.resetFor (c : Cfg) : State where
  cfg := c
  slots := List.replicate c.nSess (Slot.resetFor c)
  evflags := 0
  lastCode := 0
  lastInfo := 0
  lastSlot := 0
  work := Work.idle
  inputs := []
  result := none
  events := []
  readData := none
  draws := 0

/-- The state after the reset pin under `REFCFG`, the configuration of every test vector (rule R4; notes/assumptions/2.md). -/
def State.reset : State := State.resetFor refCfg

end Sys2Proof.Machine

namespace Sys2Proof.Config

/-- FREE VALUE. The fields of a slot after the control operation RESET: every field but `valid` (and `CB`, which reset
does not touch, rule R372) is "unspecified" (rule R46). `draw` is the machine's draw counter. -/
opaque resetSlot (draw slot : Nat) : Sys2Proof.Machine.Slot

/-- FREE VALUE. `child[user]` of a slot after the control operation RESET: "unspecified" (rule R46). -/
opaque resetChild (draw slot user : Nat) : Sys2Proof.Machine.Child

end Sys2Proof.Config
end

