-- ==== Sys2Proof/Machine/Flags.lean ====
section
/-! DEFINITION. The event flags (10_state.md rule R40), the classes and code numbers of results (60_exceptions.md rules
R320, R322), and the kind codes (43_session_dispatch.md rule R185). -/

namespace Sys2Proof.Machine

/-- The bits of `EVFLAGS` (rule R40); bits 15:9 are reserved. -/
inductive Ev where
  | invalid | unsupported | descPartial | selAmbig | fallbackLazy | trailing | capTrunc | lgyUnknown | disconnected
  deriving DecidableEq, Repr

/-- The position of a flag (rule R40). -/
def Ev.bit : Ev → Nat
  | .invalid => 0
  | .unsupported => 1
  | .descPartial => 2
  | .selAmbig => 3
  | .fallbackLazy => 4
  | .trailing => 5
  | .capTrunc => 6
  | .lgyUnknown => 7
  | .disconnected => 8

/-- The flag as a 16-bit mask. -/
def Ev.mask (e : Ev) : BitVec 16 := 1#16 <<< e.bit

/-- The writable bits of `EVFLAGS` (rule R345: `0x01FF`). -/
def evWritable : BitVec 16 := 0x01FF#16

/-- A step raises a flag: the sticky bit is set, and the step's `warn` shows it "whether or not" it was already 1 (rules
R40, R321). -/
def raiseEv (e : Ev) (s : State) : State :=
  { s with evflags := s.evflags ||| e.mask, work := { s.work with warn := s.work.warn ||| e.mask } }

/-- `EVFLAGS <- EVFLAGS AND NOT (mask AND 0x01FF)` (rule R345). -/
def clearEv (evflags mask : BitVec 16) : BitVec 16 := evflags &&& ~~~(mask &&& evWritable)

/-- The classes of results (rule R320). -/
inductive Class where
  | ok | invalid | pending | unsupported | disconnected
  deriving DecidableEq, Repr

/-- The class of a code (rule R322). -/
def Code.cls : Code → Class
  | .okReport | .okNoopChunk | .okDuplicate | .okIgnored | .okArrival | .okDescriptor | .okKey | .okLgy
  | .okControl => .ok
  | .pending => .pending
  | .invHdrShort | .invVarintTrunc | .invVarintLong | .invPayloadShort | .invFrameOversize | .invChunkNoStart
  | .invChunkRestart | .invChunkOrder | .invChunkBounds | .invChunkCapacity | .invDescHeader
  | .invArrivalShort => .invalid
  | .unsNoSlot | .unsNoSink | .unsNotReady => .unsupported
  | .disconnected => .disconnected

/-- The number of a code (rule R322). -/
def Code.byte : Code → BitVec 8
  | .okReport => 0x00
  | .okNoopChunk => 0x01
  | .okDuplicate => 0x02
  | .okIgnored => 0x03
  | .okArrival => 0x04
  | .okDescriptor => 0x05
  | .okKey => 0x06
  | .okLgy => 0x07
  | .okControl => 0x08
  | .pending => 0x10
  | .invHdrShort => 0x20
  | .invVarintTrunc => 0x21
  | .invVarintLong => 0x22
  | .invPayloadShort => 0x23
  | .invFrameOversize => 0x24
  | .invChunkNoStart => 0x28
  | .invChunkRestart => 0x29
  | .invChunkOrder => 0x2A
  | .invChunkBounds => 0x2B
  | .invChunkCapacity => 0x2C
  | .invDescHeader => 0x30
  | .invArrivalShort => 0x31
  | .unsNoSlot => 0x40
  | .unsNoSink => 0x41
  | .unsNotReady => 0x42
  | .disconnected => 0x50

/-- The flag a class raises when a step ends in it (rule R325 step 1); Pending and OK raise none, and
`EV_DISCONNECTED` is raised by `SINK_LOST` itself (rule R344). -/
def raiseClass (c : Class) (s : State) : State :=
  match c with
  | .invalid => raiseEv .invalid s
  | .unsupported => raiseEv .unsupported s
  | .ok | .pending | .disconnected => s

/-- The kind codes in `info` (rule R185). -/
def kindCode : Kind → Nat
  | .none => 0
  | .guitar => 1
  | .drums => 2
  | .sixFret => 3
  | .gamepad => 4
  | .fallback => 5
  | .legacyDemux => 6

end Sys2Proof.Machine
end

