-- ==== Sys2Proof/Machine/Operands.lean ====
section
/-! DEFINITION. The operand forms of the report decoders: bits, shared buttons, the scaling functions of 00_scope.md rule
R13, the analog variants of 45_report_extractors.md rule R252, and the field extraction of each layout into a new output
record (rules R250, R260, R270, R275). -/

namespace Sys2Proof.Machine

/-- `bit(v, i)` (45_report_extractors.md, preamble). -/
def bit {w : Nat} (v : BitVec w) (i : Nat) : Bool := v.getLsbD i

/-- `rep16(b) = b * 257` (rule R13). -/
def rep16 (b : Byte) : Half := b ++ b

/-- `axis_full(b) = as_i16(rep16(b) XOR 0x8000)` (rule R13). -/
def axisFull (b : Byte) : I16 := rep16 b ^^^ 0x8000#16

/-- `axis_half(b) = rep16(b) >> 1` (rule R13). -/
def axisHalf (b : Byte) : I16 := rep16 b >>> 1

/-- `nib8(n) = n * 17` (rule R13). -/
def nib8 (n : BitVec 4) : Byte := n ++ n

/-- `vel_pos(n) = NOT16(rep16(nib8(n))) >> 1`, filling bit 15 with 0 (rule R13, 90_conflicts.md C4). -/
def velPos (n : BitVec 4) : I16 := (~~~ rep16 (nib8 n)) >>> 1

/-- `vel_neg(n) = as_i16(vel_pos(n) OR 0x8000)` (rule R13). -/
def velNeg (n : BitVec 4) : I16 := velPos n ||| 0x8000#16

/-- `vel(i, n)` for lane `i` (rule R262). -/
def vel (negMask : BitVec 8) (lane : Nat) (n : BitVec 4) : I16 := if bit negMask lane then velNeg n else velPos n

/-- The value of the step function `steps` at `b`, `v` being its value below the first step. -/
def plateauAt (b : Nat) : (v : I16) → (steps : List (Nat × I16)) → I16
  | v, [] => v
  | v, (t, w) :: rest => if t ≤ b then plateauAt b w rest else v

/-- `PICKUP_PLATEAU` (rule R6). -/
def pickupPlateau (c : Cfg) (b : Byte) : I16 := plateauAt b.toNat 0 c.plateau

/-- `ax(v)` (rule R252). -/
def analogAxis : AxisMode → Byte → I16
  | .full, v => axisFull v
  | .half, v => axisHalf v

/-- `pk(v)` (rule R252). -/
def pickupAxis (c : Cfg) (am : AxisMode) : PickupMode → Byte → I16
  | .continuous, v => analogAxis am v
  | .plateau, v => pickupPlateau c v

/-- `(x << 8) OR (x << 1) OR (x >> 6)` (rule R270). -/
def spread7 (x : Byte) : I16 :=
  let h : Half := x.setWidth 16
  (h <<< 8) ||| (h <<< 1) ||| (h >>> 6)

/-- The six-fret whammy (rule R270): the excess over the rest value, spread over 0 to 32767 when the rest value is 0x80;
for any other rest value the formula is OPEN, a free value of the configuration. -/
def ghlWhammy (c : Cfg) (w : Byte) : I16 :=
  if c.ghl.whammyRest = 0x80#8 then spread7 (if c.ghl.whammyRest ≤ w then w - c.ghl.whammyRest else 0)
  else Config.ghlWhammyOpen c.ghl.whammyRest w

/-- `common(o, b)` with the bit positions `p` (rule R244). -/
def commonButtons (p : BtnCfg) (b : Half) (o : Out) : Out :=
  { o with
    buttonsRaw := b
    menu := bit b p.menu
    options := bit b p.options
    dpadUp := bit b p.dpadUp
    dpadDown := bit b p.dpadDown
    dpadLeft := bit b p.dpadLeft
    dpadRight := bit b p.dpadRight }

/-- The Guitar layout (rule R250) with the variants of rule R252. -/
def guitarOut (c : Cfg) (am : AxisMode) (pm : PickupMode) (d : List Byte) : Out :=
  let b := le16 d c.gtr.btnOff
  let f := byteAt d c.gtr.upperOff ||| byteAt d c.gtr.lowerOff
  let tilt := byteAt d c.gtr.tiltOff
  let whammy := byteAt d c.gtr.whammyOff
  let pickup := byteAt d c.gtr.pickupOff
  { commonButtons c.btn b Out.zero with
    tag := .guitar
    green := bit f c.gtr.green
    red := bit f c.gtr.red
    yellow := bit f c.gtr.yellow
    blue := bit f c.gtr.blue
    orange := bit f c.gtr.orange
    lowerFlag := bit b c.gtr.lowerFlagBit
    tiltRaw := tilt
    whammyRaw := whammy
    pickupRaw := pickup
    tilt := analogAxis am tilt
    whammy := analogAxis am whammy
    pickup := pickupAxis c am pm pickup }

/-- `(v >> shift) AND 0xF` (rules R63, R260). -/
def nibble (v : Half) (shift : Nat) : BitVec 4 := (v >>> shift).setWidth 4

/-- The four nibbles of a packed field (rule R260). -/
def nibbles (v : Half) (shift : Four Nat) : Four (BitVec 4) :=
  { red := nibble v shift.red, yellow := nibble v shift.yellow, blue := nibble v shift.blue,
    green := nibble v shift.green }

/-- The four velocity axes of the lanes from `base` on (rules R260, R262). -/
def velAxes (negMask : BitVec 8) (base : Nat) (n : Four (BitVec 4)) : Four I16 :=
  { red := vel negMask base n.red, yellow := vel negMask (base + 1) n.yellow,
    blue := vel negMask (base + 2) n.blue, green := vel negMask (base + 3) n.green }

/-- `YELLOW_BIT` (10_state.md rule R31). -/
def yellowBit : BitVec 2 := 1#2

/-- `BLUE_BIT` (10_state.md rule R31). -/
def blueBit : BitVec 2 := 2#2

/-- `m`, the cymbal mask of a report (rule R263): only the cymbal nibbles enter it. -/
def cymbalMask (cym : Four (BitVec 4)) : BitVec 2 :=
  (if cym.yellow ≠ 0#4 then yellowBit else 0#2) ||| (if cym.blue ≠ 0#4 then blueBit else 0#2)

/-- The d-pad emulation's latch (rule R263): the new `latched` from the report's mask, `prev_mask` and `latched`. -/
def dpadLatch (m prevMask latched : BitVec 2) : BitVec 2 :=
  if m = prevMask then latched
  else if m = 0#2 then 0#2
  else
    let kept := latched &&& m
    if kept = 0#2 then (if m &&& yellowBit ≠ 0#2 then yellowBit else blueBit) else kept

/-- The cymbal nibbles of a Drums report (rule R260). -/
def drumCymbals (c : Cfg) (d : List Byte) : Four (BitVec 4) := nibbles (le16 d c.drm.cymsOff) c.drm.cymShift

/-- The Drums layout (rule R260) with the d-pad emulation (rule R263), `latched` being the new latch. -/
def drumsOut (c : Cfg) (latched : BitVec 2) (d : List Byte) : Out :=
  let b := le16 d c.drm.btnOff
  let pad := nibbles (le16 d c.drm.padsOff) c.drm.padShift
  let cym := drumCymbals c d
  { commonButtons c.btn b Out.zero with
    tag := .drums
    pad := pad
    cym := cym
    yellow := pad.yellow ≠ 0#4 || cym.yellow ≠ 0#4
    blue := pad.blue ≠ 0#4 || cym.blue ≠ 0#4
    padAxis := velAxes c.drm.negMask 0 pad
    cymAxis := velAxes c.drm.negMask 4 cym
    dpadUp := latched &&& yellowBit ≠ 0#2 || bit b c.btn.dpadUp
    dpadDown := latched &&& blueBit ≠ 0#2 || bit b c.btn.dpadDown }

/-- The SixFret layout (rule R270). -/
def sixFretOut (c : Cfg) (d : List Byte) : Out :=
  let b := le16 d c.ghl.btnOff
  let f := byteAt d c.ghl.fretOff
  let s := byteAt d c.ghl.strumOff
  { commonButtons c.ghl.btn b Out.zero with
    tag := .sixFret
    fret6 := c.ghl.fretBit.map (bit f)
    strum := axisFull s
    dpadUp := bit b c.ghl.btn.dpadUp || s < c.ghl.strumCenter
    dpadDown := bit b c.ghl.btn.dpadDown || c.ghl.strumCenter < s
    whammy := ghlWhammy c (byteAt d c.ghl.whammyOff) }

/-- The Gamepad layout (rule R275). -/
def gamepadOut (c : Cfg) (d : List Byte) : Out :=
  { commonButtons c.btn (le16 d c.pad.btnOff) Out.zero with
    tag := .gamepad
    lt := le16 d c.pad.ltOff
    rt := le16 d c.pad.rtOff
    lx := le16 d c.pad.lxOff
    ly := le16 d c.pad.lyOff
    rx := le16 d c.pad.rxOff
    ry := le16 d c.pad.ryOff }

end Sys2Proof.Machine
end

