-- ==== Sys2Proof/Machine/Ops.lean ====
section
/-! DEFINITION. The named operations the meanings share: sparse memory, the slot selected by the step, the end of a step
(`finish`, `raise`), routing and allocation, the deduplicator, mapper construction, selection and teardown. -/

namespace Sys2Proof.Machine

/-! ## Memory -/

/-- One byte, `none` where nothing is listed. -/
def Memory.read : Memory → Nat → Option Byte
  | [], _ => none
  | (a, b) :: rest, k => if a = k then some b else Memory.read rest k

/-- The cells of `bytes` from address `a` on. -/
def Memory.cells : Nat → List Byte → Memory
  | _, [] => []
  | a, b :: rest => (a, b) :: Memory.cells (a + 1) rest

/-- `MemWrite(SP:a, n, v)`: the bytes are listed at `a` and up, everything else stays, addresses stay rising. -/
def Memory.write (m : Memory) (a : Nat) (bytes : List Byte) : Memory :=
  m.filter (fun c => c.1 < a) ++ Memory.cells a bytes ++ m.filter (fun c => a + bytes.length ≤ c.1)

/-- The canonical form: addresses strictly rising. -/
def Memory.wf : Memory → Bool
  | [] => true
  | [_] => true
  | a :: b :: rest => a.1 < b.1 && Memory.wf (b :: rest)

/-- The memory that holds the cells listed whose addresses lie below `n`, the first listed winning, in canonical form. -/
def Memory.ofCells (n : Nat) : List Host.Cell → Memory
  | [] => []
  | c :: rest => if c.1 < n then Memory.write (Memory.ofCells n rest) c.1 [c.2] else Memory.ofCells n rest

/-- Every listed address lies below `n`. -/
def Memory.below (n : Nat) (m : Memory) : Bool := m.all (fun c => c.1 < n)

/-- `MemRead(SP:a, n)` where an unlisted byte reads as `free` says. -/
def Memory.readBytes (free : Nat → Byte) (m : Memory) : (a n : Nat) → List Byte
  | _, 0 => []
  | a, n + 1 => (Memory.read m a).getD (free a) :: Memory.readBytes free m (a + 1) n

/-! ## The selected slot -/

/-- Slot `i`; a number outside the table, which no step selects, reads as a slot after reset. -/
def State.slot (s : State) (i : Nat) : Slot := s.slots.getD i Slot.reset

/-- `S`, the slot the step selected. -/
def State.cur (s : State) : Slot :=
  match s.work.sel with
  | some i => s.slot i
  | none => Slot.reset

/-- Write slot `i`. -/
def State.setSlot (s : State) (i : Nat) (x : Slot) : State := { s with slots := s.slots.set i x }

/-- Write `S`. -/
def State.setCur (s : State) (x : Slot) : State :=
  match s.work.sel with
  | some i => s.setSlot i x
  | none => s

/-- The number of `S` for an output event. -/
def State.selNo (s : State) : Nat := s.work.sel.getD 0

/-- Append to the step's sink operation list (rule R347). -/
def emit (e : Event) (s : State) : State := { s with events := s.events ++ [e] }

/-- The step's stage. -/
def setStage (g : Stage) (s : State) : State := { s with work := { s.work with stage := g } }

/-- What of the machine selects a row for the selected slot. -/
def State.ctx (s : State) : Ctx :=
  { cfg := s.cfg, openTotal := if s.cur.cstate = .accum then some s.cur.declaredLen else none,
    kind := s.cur.mapper.kind }

/-! ## The end of a step -/

/-- A value as the 32-bit `info` of a result record (rule R321). -/
def info32 (v : Nat) : BitVec 32 := if v < 2 ^ 32 then BitVec.ofNat 32 v else Config.infoOverflow v

/-- `LAST_SLOT` (rule R41): bit 7 = a slot was selected, bits 6:0 = its number. -/
def slotByte : Option Nat → BitVec 8
  | none => 0#8
  | some i => 1#1 ++ (if i < 128 then BitVec.ofNat 7 i else Config.slotNumberOverflow i)

/-- The result record of the step in progress (rule R321). -/
def record (c : Code) (info : Nat) (s : State) : Result where
  slot := s.work.sel
  key := s.work.key
  code := c
  hdrValid := s.work.hdr.isSome
  cmd := (s.work.hdr.map (·.cmd)).getD 0
  seq := (s.work.hdr.map (·.seq)).getD 0
  flags := (s.work.hdr.map (·.flags)).getD 0
  info := info32 info
  warn := s.work.warn

/-- Emit the result record and end the step (rules R321, R325 steps 2 and 4). -/
def emitRecord (c : Code) (info : Nat) (s : State) : State :=
  setStage .done { s with result := some (record c info s) }

/-- `LAST_*` take the record's `code`, `info`, `slot` (rules R41, R325 step 3). -/
def updateLast (c : Code) (info : Nat) (s : State) : State :=
  { s with lastCode := c.byte, lastInfo := info32 info, lastSlot := slotByte s.work.sel }

/-- `finish(code, info)` (rule R326). -/
def finish (c : Code) (info : Nat) (s : State) : State := emitRecord c info (updateLast c info s)

/-- Taking an exception: `raise C(code, info)` (rule R325). The class's flag is set, the record emitted, `LAST_*` updated,
the step ended; nothing is saved, nothing transferred, nothing rolled back (rule R331). There is no return operation
(rule R332): the next step finds the block as after an OK result. -/
def raise (c : Code) (info : Nat) (s : State) : State := finish c info (raiseClass c.cls s)

/-! ## Routing and allocation -/

/-- Slot `x` after allocation for `key` (rule R46, second column). `declared_len` and `received_len` are unspecified: free
values of their width; `CB` is not touched (rule R372). DESIGN CHOICE (notes/assumptions/26.md): of a child the column gives
only "every `kind` None"; its `prev_mask`, `latched` and `out` keep the values they had, and are not drawn. -/
def allocatedSlot (c : Cfg) (key : Key) (draw : Nat) (x : Slot) : Slot where
  valid := true
  tag := key
  vid := 0
  pid := 0
  arrivalSeen := false
  descSeen := false
  guids := []
  names := []
  descPartial := false
  mapper := { kind := .none, axisMode := .full, pickupMode := .continuous }
  fbWarned := false
  cstate := .idle
  declaredLen := Config.allocatedLen draw 0 % 2 ^ c.lenW
  receivedLen := Config.allocatedLen draw 1 % 2 ^ c.lenW
  cb := x.cb
  seqTab := []
  prevMask := 0
  latched := 0
  out := Out.zero
  children := x.children.map (fun u => { u with kind := .none })

/-- Allocate slot `i` for `key` (rule R131). -/
def allocate (i : Nat) (key : Key) (s : State) : State :=
  { s.setSlot i (allocatedSlot s.cfg key s.draws (s.slot i)) with draws := s.draws + 1 }

/-- A valid slot whose tag is `key`, by number (rule R22). -/
def findKey (key : Key) (slots : List Slot) : Option Nat := slots.findIdx? (fun x => x.valid && x.tag == key)

/-- The lowest slot that is not valid (rule R131). -/
def findFree (slots : List Slot) : Option Nat := slots.findIdx? (fun x => !x.valid)

/-- Select slot `i` for the step. -/
def select (i : Nat) (s : State) : State := { s with work := { s.work with sel := some i } }

/-- `ROUTE(key)` (rule R131); `none` is `UNS_NO_SLOT`. -/
def route (key : Key) (s : State) : Option State :=
  match findKey key s.slots with
  | some i => some (select i s)
  | none =>
    match findFree s.slots with
    | some i => some (select i (allocate i key s))
    | none => none

/-! ## The deduplicator -/

/-- `DDP(M, S)` (rule R171): a duplicate ends the step; any other message is remembered and goes on to dispatch (rule
R172: the update stands whatever follows). -/
def dedup (m : Message) (s : State) : State :=
  if Memory.read s.cur.seqTab m.cmd.toNat = some m.seq then
    finish .okDuplicate (m.cmd.toNat + 256 * m.seq.toNat) s
  else
    setStage (.message m) (s.setCur { s.cur with seqTab := Memory.write s.cur.seqTab m.cmd.toNat [m.seq] })

/-! ## Mapper construction, selection, teardown -/

/-- `construct(S, k, am, pm)` (rule R190, with the event of rule R301). -/
def construct (k : Kind) (am : AxisMode) (pm : PickupMode) (s : State) : State :=
  if s.work.openOk = false then raiseEv .unsupported s
  else
    let s1 := s.setCur { s.cur with
      mapper := { kind := k, axisMode := am, pickupMode := pm }
      prevMask := 0
      latched := 0
      out := Out.zero
      children := s.cur.children.map (fun u => { u with kind := .none }) }
    let s2 := emit (.sinkOpen s.selNo none k) s1
    if k = .legacyDemux then emit (.requestConnectedDevices s.selNo) s2 else s2

/-- The entries of `GUID_TABLE` that some identifier of the descriptor names (rule R192). -/
def guidMatches (c : Cfg) (guids : List (List Byte)) : List GuidEntry :=
  c.guidTable.filter (fun e => guids.contains e.guid)

/-- `factory(S)` (rule R192); the number of matches is `guidMatches`' length. -/
def factory (s : State) : State :=
  match guidMatches s.cfg s.cur.guids with
  | [e] => construct e.kind e.axisMode e.pickupMode s
  | _ => construct .fallback .full .continuous (raiseEv .selAmbig s)

/-- Lazy fallback (rule R196) up to the raise: when construction is refused the mapper stays None. -/
def lazyFallback (s : State) : State :=
  let s1 := construct .fallback .full .continuous s
  if s1.cur.mapper.kind = .none then s1
  else if s1.cur.fbWarned then s1
  else raiseEv .fallbackLazy (s1.setCur { s1.cur with fbWarned := true })

/-- `forward(M, S)` (rule R187) with rules R195 and R196; a message that gets through waits for its level-3 row. -/
def forward (m : Message) (s : State) : State :=
  let s1 := if s.cur.mapper.kind = .none then lazyFallback s else s
  if s1.cur.mapper.kind = .none then raise .unsNoSink 0 s1
  else if s1.work.ready = false then raise .unsNotReady 0 s1
  else setStage (.report m) s1

/-- The `sink.close` events of the live children of slot `i`, in user order from `u` on (rule R197). -/
def childCloses (i : Nat) : (u : Nat) → List Child → List Event
  | _, [] => []
  | u, x :: rest =>
    if x.kind = .none then childCloses i (u + 1) rest else .sinkClose i (some u) :: childCloses i (u + 1) rest

/-- `teardown(S)` for slot `i` (rule R197): the children of a LegacyDemux first, then the slot's own handle. -/
def teardown (i : Nat) (s : State) : State :=
  let x := s.slot i
  if x.mapper.kind = .none then s
  else
    let kids := if x.mapper.kind = .legacyDemux then childCloses i 0 x.children else []
    let s1 := s.setSlot i { x with
      mapper := { x.mapper with kind := .none }
      children := if x.mapper.kind = .legacyDemux then x.children.map (fun u => { u with kind := .none }) else x.children }
    { s1 with events := s1.events ++ kids ++ [.sinkClose i none] }

/-! ## The report commit -/

/-- `commit(S, o)` (rule R243): the guide bit is carried over, the record changes at once, one submit. -/
def commit (o : Out) (s : State) : State :=
  let o' := { o with guide := s.cur.out.guide }
  finish .okReport (kindCode o'.tag) (emit (.sinkSubmit s.selNo none o') (s.setCur { s.cur with out := o' }))

/-- The Guitar decoder on the slot (rule R250). -/
def decodeGuitar (am : AxisMode) (pm : PickupMode) (d : List Byte) (s : State) : State :=
  commit (guitarOut s.cfg am pm d) s

/-- The Drums decoder on the slot (rules R260, R263). -/
def decodeDrums (d : List Byte) (s : State) : State :=
  let m := cymbalMask (drumCymbals s.cfg d)
  let l := dpadLatch m s.cur.prevMask s.cur.latched
  commit (drumsOut s.cfg l d) (s.setCur { s.cur with prevMask := m, latched := l })

/-- The SixFret decoder on the slot (rule R270). -/
def decodeSixFret (d : List Byte) (s : State) : State := commit (sixFretOut s.cfg d) s

/-- The Gamepad decoder on the slot (rule R275). -/
def decodeGamepad (d : List Byte) (s : State) : State := commit (gamepadOut s.cfg d) s

/-- A report that the mapper does not take (rule R241). -/
def ignoreMessage (s : State) : State := finish .okIgnored 0 s

end Sys2Proof.Machine
end

