-- ==== Sys2Proof/Machine/Control.lean ====
section
/-! DEFINITION. The control-port rows (60_exceptions.md rules R340 to R346). -/

namespace Sys2Proof.Machine

/-- The working registers at the start of a control operation: no slot, no header, the step's key (rule R321). -/
def beginControl (key : Key) (s : State) : State := { s with work := { Work.idle with key := key } }

/-- Tear down every valid slot from the slots' numbers listed, in order (rule R342). -/
def teardownAll : List Nat → State → State
  | [], s => s
  | i :: rest, s => teardownAll rest (if (s.slot i).valid then teardown i s else s)

/-- The children of a slot after RESET: unspecified (rule R46). -/
def resetChildren (draw slot : Nat) : (u : Nat) → List Child → List Child
  | _, [] => []
  | u, _ :: rest => Config.resetChild draw slot u :: resetChildren draw slot (u + 1) rest

/-- The slots after RESET, numbered from `i` on (rule R46, first column): not valid, `CB` untouched (rule R372), every
other field unspecified: a free value of its width. -/
def resetSlots (c : Cfg) (draw : Nat) : (i : Nat) → List Slot → List Slot
  | _, [] => []
  | i, x :: rest =>
    { Config.resetSlot draw i with
      valid := false
      cb := x.cb
      declaredLen := (Config.resetSlot draw i).declaredLen % 2 ^ c.lenW
      receivedLen := (Config.resetSlot draw i).receivedLen % 2 ^ c.lenW
      seqTab := Memory.ofCells 256 (Config.resetSlot draw i).seqTab
      children := resetChildren draw i 0 x.children }
      :: resetSlots c draw (i + 1) rest

/-- The column "global reset" of rule R46. -/
def globalReset (s : State) : State :=
  { s with slots := resetSlots s.cfg s.draws 0 s.slots, evflags := 0, lastCode := 0, lastInfo := 0, lastSlot := 0,
           draws := s.draws + 1 }

/-- `RESET` (rule R342). -/
def execReset (s : State) : Host.Outcome State Fault Refusal :=
  .next (finish .okControl 0
    (globalReset (teardownAll (List.range s.slots.length) (beginControl 0 s))))

/-- `CLOSE(key)` (rule R343). -/
def execClose (k : Key) (s : State) : Host.Outcome State Fault Refusal :=
  let s0 := beginControl k s
  .next (match findKey k s0.slots with
    | none => finish .okControl 0 s0
    | some i =>
      let s1 := teardown i (select i s0)
      finish .okControl 1 (s1.setCur { s1.cur with valid := false }))

/-- `SINK_LOST(key)` (rule R344). -/
def execSinkLost (k : Key) (s : State) : Host.Outcome State Fault Refusal :=
  let s0 := beginControl k s
  .next (match findKey k s0.slots with
    | none => finish .okControl 0 s0
    | some i =>
      if (s0.slot i).mapper.kind = .none then finish .okControl 0 s0
      else finish .disconnected 0 (raiseEv .disconnected (teardown i (select i s0))))

/-- `SESS_VALID` (rules R41, R42): bit i is `valid` of slot i. -/
def sessValid : List Slot → Nat
  | [] => 0
  | x :: rest => (if x.valid then 1 else 0) + 2 * sessValid rest

/-- The register map (rule R42); an unassigned register reads 0. -/
def csrValue (n : Nat) (s : State) : Nat :=
  match n with
  | 0 => s.evflags.toNat
  | 1 => s.lastCode.toNat
  | 2 => s.lastInfo.toNat
  | 3 => s.lastSlot.toNat
  | 4 => sessValid s.slots
  | _ => 0

/-- `CSR_READ(n)` (rule R346): the read-data output and a record; `LAST_*` are not updated. -/
def execCsrRead (n : Nat) (s : State) : Host.Outcome State Fault Refusal :=
  let s0 := beginControl 0 s
  .next { emitRecord .okControl (csrValue n s0) s0 with readData := some (csrValue n s0) }

/-- `CSR_W1C(n, mask)` (rule R345). -/
def execCsrW1c (n : Nat) (mask : BitVec 16) (s : State) : Host.Outcome State Fault Refusal :=
  let s0 := beginControl 0 s
  let s1 := if n = 0 then { s0 with evflags := clearEv s0.evflags mask } else s0
  .next (finish .okControl s1.evflags.toNat s1)

/-- A control operation with an unassigned number (rule R340): no row of the table; it is ignored with `OK_CONTROL` and
"changes nothing" (93_implementation_defined.md U5, vector CTL-5): a record alone, `LAST_*` stay (notes/assumptions/8.md). -/
def unassignedControl (s : State) : State := emitRecord .okControl 0xFFFFFFFF (beginControl 0 s)

end Sys2Proof.Machine
end

