-- ==== Sys2Proof/Machine/Descriptor.lean ====
section
/-! DEFINITION. The descriptor parser DSC (44_descriptor_parser.md), and the level-2 row `DESCRIPTOR`
(43_session_dispatch.md rule R185). -/

namespace Sys2Proof.Machine

/-- `fits(p, k)` (rule R214). -/
def fits (bound p k : Nat) : Bool := p + k ≤ bound

/-- What `entry(k)` answers (rule R213): the table entry lies outside the bound, the list is absent, or the list's offset. -/
inductive Entry where
  | outside
  | absent
  | start (p : Nat)
  deriving DecidableEq, Repr

/-- `entry(k)` (rules R212, R213); `t` is the start of the offset table. -/
def tableEntry (d : List Byte) (t bound k : Nat) : Entry :=
  let e := t + 2 * k
  if fits bound e 2 = false then .outside
  else
    let o := (le16 d e).toNat
    if o = 0 then .absent else .start (t + o)

/-- The working values of one list: the elements accepted, `part`, `cap` (rule R210). -/
structure Acc where
  items : List (List Byte)
  part : Bool
  cap : Bool
  deriving DecidableEq, Repr

/-- Nothing accepted yet. -/
def Acc.empty : Acc := { items := [], part := false, cap := false }

/-- Accept an element of a set of capacity `max` (rules R217, R218, R221): a repetition is dropped silently, an element
beyond the capacity is dropped with `cap` and `part`. -/
def Acc.add (max : Nat) (x : List Byte) (a : Acc) : Acc :=
  if x ∈ a.items then a
  else if a.items.length = max then { a with cap := true, part := true }
  else { a with items := a.items ++ [x] }

/-- The loop of the identifier list (rule R217). -/
def guidLoop (c : Cfg) (d : List Byte) (bound : Nat) : (count p : Nat) → Acc → Acc
  | 0, _, a => a
  | n + 1, p, a =>
    if fits bound p c.dsc.guidBytes = false then { a with part := true }
    else guidLoop c d bound n (p + c.dsc.guidBytes) (a.add c.dsc.maxGuids (slice d p c.dsc.guidBytes))

/-- A name cut to its capacity marks `cap` and `part` (rule R221). -/
def Acc.cut (long : Bool) (a : Acc) : Acc := if long then { a with cap := true, part := true } else a

/-- The loop of the class-name list (rule R218, letter for letter: the prefix is fitted and passed with `DSC_STRLEN_W`, and
read as `LE16`; of a width other than 2 see notes/assumptions/27.md). -/
def nameLoop (c : Cfg) (d : List Byte) (bound : Nat) : (count p : Nat) → Acc → Acc
  | 0, _, a => a
  | n + 1, p, a =>
    if fits bound p c.dsc.strlenW = false then { a with part := true }
    else
      let l := (le16 d p).toNat
      let q := p + c.dsc.strlenW
      if fits bound q l = false then { a with part := true }
      else
        let k := min l c.dsc.maxNameLen
        nameLoop c d bound n (q + l) ((a.cut (decide (k < l))).add c.dsc.maxNames (slice d q k))

/-- A list of the descriptor: its entry, its count byte, its loop (rules R217, R218). -/
def parseList (d : List Byte) (t bound k : Nat) (loop : (count p : Nat) → Acc → Acc) : Acc :=
  match tableEntry d t bound k with
  | .outside => { Acc.empty with part := true }
  | .absent => Acc.empty
  | .start p =>
    if fits bound p 1 = false then { Acc.empty with part := true }
    else loop (byteAt d p).toNat (p + 1) Acc.empty

/-- What `DSC.parse` answers: `INV_DESC_HEADER` with its info, or the values of rule R222's commit. -/
inductive DscRes where
  | bad (info : Nat)
  | ok (guids names : List (List Byte)) (part cap : Bool)
  deriving DecidableEq, Repr

/-- `DSC.parse` (rules R210, R211). -/
def dscParse (c : Cfg) (d : List Byte) : DscRes :=
  let n := d.length
  if n < c.dsc.hdrMin then .bad (0 + 256 * n)
  else
    let hlen := (le16 d c.dsc.hlenOff).toNat
    let dlen := (le16 d c.dsc.dlenOff).toNat
    if dlen > n then .bad (1 + 256 * dlen)
    else if hlen < c.dsc.hdrMin ∨ hlen > dlen then .bad (2 + 256 * hlen)
    else
      let g := parseList d hlen dlen c.dsc.entGuids (guidLoop c d dlen)
      let nm := parseList d hlen dlen c.dsc.entNames (nameLoop c d dlen)
      .ok g.items nm.items (g.part || nm.part) (g.cap || nm.cap)

/-- The commit (rule R222). -/
def dscCommit (guids names : List (List Byte)) (part cap : Bool) (s : State) : State :=
  let s1 := s.setCur { s.cur with guids := guids, names := names, descPartial := part, descSeen := true }
  let s2 := if part then raiseEv .descPartial s1 else s1
  if cap then raiseEv .capTrunc s2 else s2

/-- The end of `DESCRIPTOR` after the commit (rule R185): selection if there is no mapper, then the result. -/
def selectMapper (s : State) : State :=
  let n := (guidMatches s.cfg s.cur.guids).length
  let s1 := if s.cur.mapper.kind = .none then factory s else s
  if s1.cur.mapper.kind = .none then raise .unsNoSink 0 s1
  else
    finish .okDescriptor (s1.cur.guids.length + 256 * s1.cur.names.length + 65536 * min n 255
      + 2 ^ 24 * kindCode s1.cur.mapper.kind) s1

/-- `DESCRIPTOR` (rule R185). -/
def execDescriptor (m : Message) (s : State) : Host.Outcome State Fault Refusal :=
  .next (if s.cur.descSeen then finish .okIgnored 0 s
    else
      match dscParse s.cfg m.data with
      | .bad info => raise .invDescHeader info s
      | .ok g nm part cap => selectMapper (dscCommit g nm part cap s))

end Sys2Proof.Machine
end

