-- ==== Sys2Proof/Machine/Framing.lean ====
section
/-! DEFINITION. The level-1 rows: an unchunked frame (40_header_decoder.md rule R137) and the chunk reassembler CHK
(41_chunk_reassembler.md). `x` is the packet's index field, `p` its payload, `|p|` = `h.len`. -/

namespace Sys2Proof.Machine

/-- `M` of an unchunked frame (rule R137). -/
def plainMessage (h : Hdr) (p : List Byte) : Message := { cmd := h.cmd, flags := h.flags, seq := h.seq, data := p }

/-- The flags byte without the two chunk bits (rule R157: `h.flags AND 0x3F` under `REFCFG`). -/
def clearChunkFlags (c : HdrCfg) (flags : Byte) : Byte :=
  flags &&& ~~~((1#8 <<< c.flagChunkStart) ||| (1#8 <<< c.flagChunk))

/-- The slot's open sequence is discarded (rule R158): `cstate <- Idle`, the bytes of `CB` stay. -/
def discardChunks (s : State) : State := s.setCur { s.cur with cstate := .idle }

/-- The bounds test, the write and Pending (rule R155). -/
def chunkStore (off : Nat) (p : List Byte) (s : State) : State :=
  if off + p.length > s.cur.declaredLen then raise .invChunkBounds (off + p.length) (discardChunks s)
  else
    raise .pending (off + p.length)
      (s.setCur { s.cur with cb := Memory.write s.cur.cb off p, receivedLen := off + p.length })

/-- The order test (rule R154), then rule R155. -/
def chunkAppend (off : Nat) (p : List Byte) (s : State) : State :=
  if off ≠ s.cur.receivedLen then raise .invChunkOrder off (discardChunks s) else chunkStore off p s

/-- The reassembled message (rules R156, R157); a byte of `CB` that nothing has written, which no run hands off (rule
R372), is a free value. -/
def reassembled (h : Hdr) (s : State) : Message :=
  { cmd := h.cmd, flags := clearChunkFlags s.cfg.hdr h.flags, seq := h.seq,
    data := Memory.readBytes (Config.chunkBufPowerOn s.selNo) s.cur.cb 0 s.cur.declaredLen }

/-- The terminator (rule R156) in an open sequence whose total is `x`. -/
def chunkTerminate (h : Hdr) (x : Nat) (s : State) : State :=
  if s.cur.receivedLen ≠ s.cur.declaredLen then raise .invChunkOrder x (discardChunks s)
  else dedup (reassembled h s) (discardChunks s)

/-- `MSG` (rule R137): the payload goes to DDP as a complete message; CHK is not consulted. -/
def execMsg (h : Hdr) (p : List Byte) (s : State) : Host.Outcome State Fault Refusal := .next (dedup (plainMessage h p) s)

/-- `CHK.NOP` (rule R151). -/
def execChkNop (_h : Hdr) (s : State) : Host.Outcome State Fault Refusal := .next (finish .okNoopChunk 0 s)

/-- `CHK.S` (rule R152, then R154 and R155 with offset 0). -/
def execChkS (_h : Hdr) (x : Nat) (p : List Byte) (s : State) : Host.Outcome State Fault Refusal :=
  .next (if s.cur.cstate = .accum ∧ s.cur.declaredLen ≠ x then raise .invChunkRestart x (discardChunks s)
    else if x > s.cfg.chunkBufBytes then raise .invChunkCapacity x (discardChunks s)
    else chunkAppend 0 p (s.setCur { s.cur with cstate := .accum, declaredLen := x, receivedLen := 0 }))

/-- `CHK.E` (rules R153, R156); if the open sequence has another total the packet is no terminator and goes the way of a
continuation packet with an empty payload. -/
def execChkE (h : Hdr) (x : Nat) (s : State) : Host.Outcome State Fault Refusal :=
  .next (if s.cur.cstate = .idle then raise .invChunkNoStart x s
    else if x = s.cur.declaredLen then chunkTerminate h x s
    else chunkAppend x [] s)

/-- `CHK.D` (rules R153, R154, R155). -/
def execChkD (_h : Hdr) (x : Nat) (p : List Byte) (s : State) : Host.Outcome State Fault Refusal :=
  .next (if s.cur.cstate = .idle then raise .invChunkNoStart x s else chunkAppend x p s)

end Sys2Proof.Machine
end

