-- ==== Sys2Proof/Machine/Legacy.lean ====
section
/-! DEFINITION. The level-3 rows of the wireless-legacy demultiplexer LGY (46_legacy_demux.md). The unit exists only if
`HAS_LEGACY_DEMUX` = 1; where it does not, its rows are commands the mapper does not recognize (rule R241). -/

namespace Sys2Proof.Machine

/-- `child[u]` of the selected slot. -/
def State.child (s : State) (u : Nat) : Child := s.cur.children.getD u Child.reset

/-- Write `child[u]` of the selected slot. -/
def State.setChild (s : State) (u : Nat) (x : Child) : State :=
  s.setCur { s.cur with children := s.cur.children.set u x }

/-- The part of `LGY.decode` every sub-message shares (rule R302): the user index, checked, then `k`. -/
def withUser (m : Message) (s : State) (k : LgyCfg → Nat → State) : State :=
  match s.cfg.lgy with
  | none => ignoreMessage s
  | some l =>
    if m.data.length ≤ l.userOff then ignoreMessage s
    else
      let u := (byteAt m.data l.userOff).toNat
      if u ≥ l.nUsers then ignoreMessage (raiseEv .lgyUnknown s) else k l u

/-- Dispose child `u` (rule R304, without finishing). -/
def disposeChild (u : Nat) (s : State) : State :=
  if (s.child u).kind = .none then s
  else emit (.sinkClose s.selNo (some u)) (s.setChild u { s.child u with kind := .none })

/-- The child kind of a subtype byte; `none` is an unknown subtype (rules R302, R303). -/
def subtypeKind (l : LgyCfg) (t : Byte) : Option Kind :=
  if l.subtypesGuitar.contains t then some .guitar else if t = l.subtypeDrums then some .drums else none

/-- A connect sub-message of a known subtype (rule R302). -/
def connectChild (u : Nat) (k : Kind) (s : State) : State :=
  let s1 := disposeChild u s
  if s1.work.openOk = false then finish .okLgy u (raiseEv .unsupported s1)
  else
    finish .okLgy (u + 256 * kindCode k)
      (emit (.sinkOpen s1.selNo (some u) k)
        (s1.setChild u { kind := k, prevMask := 0, latched := 0, out := Out.zero }))

/-- `LGY.CONNECT` (rules R302, R303). -/
def execLgyConnect (m : Message) (s : State) : Host.Outcome State Fault Refusal :=
  .next (withUser m s fun l u =>
    if m.data.length < l.connectMin then ignoreMessage s
    else
      match subtypeKind l (byteAt m.data l.subtypeOff) with
      | none => finish .okLgy u (raiseEv .lgyUnknown s)
      | some k => connectChild u k s)

/-- `LGY.DISCONNECT` (rule R304). -/
def execLgyDisconnect (m : Message) (s : State) : Host.Outcome State Fault Refusal :=
  .next (withUser m s fun _ u => finish .okLgy u (disposeChild u s))

/-- `commit` on a child (rules R243, R305). -/
def commitChild (u : Nat) (o : Out) (s : State) : State :=
  let o' := { o with guide := (s.child u).out.guide }
  finish .okReport (kindCode o'.tag + 256 * u)
    (emit (.sinkSubmit s.selNo (some u) o') (s.setChild u { s.child u with out := o' }))

/-- The Drums decoder on a child (rules R260, R263, R305). -/
def decodeChildDrums (u : Nat) (d : List Byte) (s : State) : State :=
  let m := cymbalMask (drumCymbals s.cfg d)
  let l := dpadLatch m (s.child u).prevMask (s.child u).latched
  commitChild u (drumsOut s.cfg l d) (s.setChild u { s.child u with prevMask := m, latched := l })

/-- `LGY.INPUT` (rule R305): a child Guitar has `axis_mode` Full and `pickup_mode` Continuous (rule R302). -/
def execLgyInput (m : Message) (s : State) : Host.Outcome State Fault Refusal :=
  .next (withUser m s fun l u =>
    if (s.child u).kind = .none then ignoreMessage s
    else if m.data.length < l.innerOff then ignoreMessage s
    else
      let inner := m.data.drop l.innerOff
      if (s.child u).kind = .guitar ∧ inner.length = s.cfg.gtr.len then
        commitChild u (guitarOut s.cfg .full .continuous inner) s
      else if (s.child u).kind = .drums ∧ inner.length = s.cfg.drm.len then decodeChildDrums u inner s
      else ignoreMessage s)

end Sys2Proof.Machine
end

