-- ==== Sys2Proof/Machine/Report.lean ====
section
/-! DEFINITION. The level-3 rows of the report extractors RPT (45_report_extractors.md). A report of another length than
the layout's is "not this report type" and ignored (rule R241). -/

namespace Sys2Proof.Machine

/-- `INPUT.GTR` (rules R250, R252). -/
def execInputGtr (m : Message) (s : State) : Host.Outcome State Fault Refusal :=
  .next (if m.data.length = s.cfg.gtr.len then decodeGuitar s.cur.mapper.axisMode s.cur.mapper.pickupMode m.data s
    else ignoreMessage s)

/-- `INPUT.DRM` (rules R260, R262, R263). -/
def execInputDrm (m : Message) (s : State) : Host.Outcome State Fault Refusal :=
  .next (if m.data.length = s.cfg.drm.len then decodeDrums m.data s else ignoreMessage s)

/-- `GHLINPUT.GHL` (rule R270). -/
def execGhlInputGhl (m : Message) (s : State) : Host.Outcome State Fault Refusal :=
  .next (if m.data.length = s.cfg.ghl.len then decodeSixFret m.data s else ignoreMessage s)

/-- `INPUT.PAD` (rule R275): without the Gamepad layout the report is one the mapper does not know (rule R241). -/
def execInputPad (m : Message) (s : State) : Host.Outcome State Fault Refusal :=
  .next (if s.cfg.hasGamepad = true ∧ m.data.length = s.cfg.pad.len then decodeGamepad m.data s else ignoreMessage s)

/-- The first member of `FB_LAYOUTS` with the message's command and length (rule R280). -/
def sniffLayout (c : Cfg) (m : Message) : Option Kind :=
  c.fbLayouts.find? (fun k => m.cmd == c.reportCmd k && c.reportLen k == some m.data.length)

/-- The decoder of layout `k` as the Fallback runs it: `axis_mode` Full, `pickup_mode` Continuous (rule R280).
DESIGN CHOICE (notes/assumptions/25.md): a list that names Gamepad while `HAS_GAMEPAD` = 0, for which the spec gives no
result, runs the Gamepad decoder all the same, as rule R280's pseudocode reads. -/
def runLayout (k : Kind) (d : List Byte) (s : State) : State :=
  match k with
  | .guitar => decodeGuitar .full .continuous d s
  | .drums => decodeDrums d s
  | .sixFret => decodeSixFret d s
  | .gamepad => decodeGamepad d s
  | .none | .fallback | .legacyDemux => ignoreMessage s

/-- `INPUT.FB` (rule R280). -/
def execInputFb (m : Message) (s : State) : Host.Outcome State Fault Refusal :=
  .next (match sniffLayout s.cfg m with
    | some k => runLayout k m.data s
    | none => ignoreMessage s)

/-- `KEYSTROKE.GUIDE` (rule R290). -/
def execKeystrokeGuide (m : Message) (s : State) : Host.Outcome State Fault Refusal :=
  .next (if s.cfg.guideEn.contains s.cur.mapper.kind = false ∨ m.data.length ≠ s.cfg.key.len then ignoreMessage s
    else if byteAt m.data s.cfg.key.codeOff ≠ s.cfg.key.guide then ignoreMessage s
    else
      let g := bit (byteAt m.data s.cfg.key.flagsOff) s.cfg.key.pressedBit
      let o := { s.cur.out with guide := g }
      finish .okKey g.toNat (emit (.sinkSubmit s.selNo none o) (s.setCur { s.cur with out := o })))

/-- `NOOP` (rule R241). -/
def execNoop (_m : Message) (s : State) : Host.Outcome State Fault Refusal := .next (ignoreMessage s)

end Sys2Proof.Machine
end

