-- ==== Sys2Proof/Machine/Session.lean ====
section
/-! DEFINITION. The level-2 rows but `DESCRIPTOR` (43_session_dispatch.md): Arrival, the ignored commands, and the
commands forwarded to the mapper. -/

namespace Sys2Proof.Machine

/-- `ARRIVAL` (rule R184). -/
def execArrival (m : Message) (s : State) : Host.Outcome State Fault Refusal :=
  .next (if s.cur.arrivalSeen then finish .okIgnored 0 s
    else if m.data.length < s.cfg.arr.minLen then raise .invArrivalShort m.data.length s
    else
      let vid := le16 m.data s.cfg.arr.vidOff
      let pid := le16 m.data s.cfg.arr.pidOff
      finish .okArrival (vid.toNat + 65536 * pid.toNat)
        (s.setCur { s.cur with vid := vid, pid := pid, arrivalSeen := true }))

/-- `ACK` (rule R186). -/
def execAck (_m : Message) (s : State) : Host.Outcome State Fault Refusal := .next (finish .okIgnored 0 s)

/-- `AUTH` (rule R186). -/
def execAuth (_m : Message) (s : State) : Host.Outcome State Fault Refusal := .next (finish .okIgnored 0 s)

/-- `SERIAL` (rule R186). -/
def execSerial (_m : Message) (s : State) : Host.Outcome State Fault Refusal := .next (finish .okIgnored 0 s)

/-- `KEYSTROKE` (rule R187). -/
def execKeystroke (m : Message) (s : State) : Host.Outcome State Fault Refusal := .next (forward m s)

/-- `INPUT` (rule R187). -/
def execInput (m : Message) (s : State) : Host.Outcome State Fault Refusal := .next (forward m s)

/-- `GHLINPUT` (rule R187). -/
def execGhlInput (m : Message) (s : State) : Host.Outcome State Fault Refusal := .next (forward m s)

/-- `OTHER` (rule R187): command ids no mapper knows are forwarded too. -/
def execOther (m : Message) (s : State) : Host.Outcome State Fault Refusal := .next (forward m s)

end Sys2Proof.Machine
end

