-- ==== Sys2Proof/Machine/Dispatch.lean ====
section
/-! DEFINITION. One arm per constructor of Instr, each one direct call of its meaning. -/

namespace Sys2Proof.Machine

def exec (i : Instr) (s : State) : Host.Outcome State Fault Refusal :=
  match i with
  | .msg h p => Sys2Proof.Machine.execMsg h p s
  | .chkNop h => Sys2Proof.Machine.execChkNop h s
  | .chkS h x p => Sys2Proof.Machine.execChkS h x p s
  | .chkE h x => Sys2Proof.Machine.execChkE h x s
  | .chkD h x p => Sys2Proof.Machine.execChkD h x p s
  | .ack m => Sys2Proof.Machine.execAck m s
  | .arrival m => Sys2Proof.Machine.execArrival m s
  | .descriptor m => Sys2Proof.Machine.execDescriptor m s
  | .auth m => Sys2Proof.Machine.execAuth m s
  | .keystroke m => Sys2Proof.Machine.execKeystroke m s
  | .serial m => Sys2Proof.Machine.execSerial m s
  | .input m => Sys2Proof.Machine.execInput m s
  | .ghlInput m => Sys2Proof.Machine.execGhlInput m s
  | .other m => Sys2Proof.Machine.execOther m s
  | .inputGtr m => Sys2Proof.Machine.execInputGtr m s
  | .inputDrm m => Sys2Proof.Machine.execInputDrm m s
  | .ghlInputGhl m => Sys2Proof.Machine.execGhlInputGhl m s
  | .inputPad m => Sys2Proof.Machine.execInputPad m s
  | .inputFb m => Sys2Proof.Machine.execInputFb m s
  | .keystrokeGuide m => Sys2Proof.Machine.execKeystrokeGuide m s
  | .lgyConnect m => Sys2Proof.Machine.execLgyConnect m s
  | .lgyDisconnect m => Sys2Proof.Machine.execLgyDisconnect m s
  | .lgyInput m => Sys2Proof.Machine.execLgyInput m s
  | .noop m => Sys2Proof.Machine.execNoop m s
  | .reset => Sys2Proof.Machine.execReset s
  | .close k => Sys2Proof.Machine.execClose k s
  | .sinkLost k => Sys2Proof.Machine.execSinkLost k s
  | .csrRead n => Sys2Proof.Machine.execCsrRead n s
  | .csrW1c n mask => Sys2Proof.Machine.execCsrW1c n mask s

end Sys2Proof.Machine
end

