-- ==== Sys2Proof/Machine/Frame.lean ====
section
/-! DEFINITION. How a step takes its input: the part of a frame's step before its level-1 row (40_header_decoder.md rule
R130, steps 1 to 4), the decoding of a control operation, and the passage from one level's row to the next. -/

namespace Sys2Proof.Machine

/-- The result of a rejection by HDR or the payload extraction (60_exceptions.md rule R322). The last three are no
rejection of a frame's header and never reach a step. -/
def rejectCode : Reject → Code × Nat
  | .hdrShort n => (.invHdrShort, n)
  | .varintTrunc which pos => (.invVarintTrunc, which + 256 * pos)
  | .varintLong which pos => (.invVarintLong, which + 256 * pos)
  | .payloadShort n => (.invPayloadShort, n)
  | .notAMessage => (.okIgnored, 0)
  | .opUnassigned _ => (.okControl, 0xFFFFFFFF)
  | .wrongPort => (.okIgnored, 0)

/-- What the fetch of a step's first instruction answers. -/
inductive Fetched where
  | ended (s : State)
  | run (i : Instr) (s : State)
  deriving DecidableEq, Repr

/-- The output ports before a step's first action. -/
def clearPorts (s : State) : State := { s with result := none, events := [], readData := none }

/-- The working registers at the start of a frame's step. -/
def beginFrame (key : Key) (openOk ready : Bool) (s : State) : State :=
  { s with work := { Work.idle with key := key, openOk := openOk, ready := ready } }

/-- Write the header prefix into its working register (rule R23). -/
def setHdr (h : Option Hdr) (s : State) : State := { s with work := { s.work with hdr := h } }

/-- HDR, payload extraction and the choice of the level-1 row, on the selected slot (rules R132 to R136, R96). -/
def fetchHeader (bytes : List Byte) (s : State) : Fetched :=
  match parseFrame s.cfg bytes with
  | .bad h r => .ended (raise (rejectCode r).1 (rejectCode r).2 (setHdr h s))
  | .ok p =>
    let s1 := setHdr (some p.hdr) s
    .run (decodeFraming s.ctx p) (if p.trailing then raiseEv .trailing s1 else s1)

/-- Steps 1 to 4 of a frame's step (rules R135, R131, R132 to R136). -/
def fetchFrame (bytes : List Byte) (s : State) : Fetched :=
  if bytes.length > s.cfg.frameMax then .ended (raise .invFrameOversize bytes.length s)
  else
    match route s.work.key s with
    | none => .ended (raise .unsNoSlot 0 s)
    | some s1 => fetchHeader bytes s1

/-- The first instruction of a step: a frame's level-1 row, or a control operation. -/
def fetch (inp : Input) (s : State) : Fetched :=
  match inp with
  | .deliver key bytes openOk ready => fetchFrame bytes (beginFrame key openOk ready s)
  | .control op key n mask =>
    match decodeControl op key n mask with
    | some i => .run i s
    | none => .ended (unassignedControl s)

/-- The row that the stage of the step in progress waits for: level 2 of a complete message, level 3 of a forwarded one. -/
def nextInstr (s : State) : Option Instr :=
  match s.work.stage with
  | .done => none
  | .message m => some (decodeMessage s.cfg m)
  | .report m => some (decodeReport s.cfg s.cur.mapper.kind m)

/-- After a step the working registers hold nothing (rule R23). -/
def endStep (s : State) : State := { s with work := Work.idle }

/-- Sequencing of outcomes. -/
def andThen (o : Host.Outcome State Fault Refusal) (f : State → Host.Outcome State Fault Refusal) :
    Host.Outcome State Fault Refusal :=
  match o with
  | .next s => f s
  | .fault r => .fault r
  | .refused r => .refused r

/-- The frame that carries a table word, as the input of the next step: stream 0 of the direct transport, with a sink
that opens and is ready. -/
def tableInput (nbits w : Nat) : Input :=
  match tableWire nbits w with
  | .frame bytes => .deliver (Key.direct 0) bytes true true
  | .control op key n mask => .control op key n mask

end Sys2Proof.Machine
end

