-- ==== Sys2Proof/Machine/Step.lean ====
section
/-! DEFINITION. One step: one delivered frame or one control operation, atomic (00_scope.md rule R2, 20_memory.md rule
R66, 40_header_decoder.md rule R130). -/

namespace Sys2Proof.Machine

/-- Run the row the stage waits for, if the step has not ended. -/
def runNext (s : State) : Host.Outcome State Fault Refusal :=
  match nextInstr s with
  | none => .next s
  | some i => exec i s

/-- The rows of one step, from its first instruction on: level 1, then at most one row of level 2 and one of level 3 (a
control operation is a row of its own). -/
def runRows (i : Instr) (s : State) : Host.Outcome State Fault Refusal := andThen (andThen (exec i s) runNext) runNext

/-- The next state: the block takes the oldest input that waits at its ports and runs it to its end. With no input "the
block waits for the first step" (70_reset_and_hazards.md rule R361) and "nothing in the block changes between steps"
(60_exceptions.md rule R350). -/
def step (s : State) : Host.Outcome State Fault Refusal :=
  match s.inputs with
  | [] => .next s
  | inp :: rest =>
    match fetch inp (clearPorts { s with inputs := rest }) with
    | .ended s1 => .next (endStep s1)
    | .run i s1 => andThen (runRows i s1) (fun s2 => .next (endStep s2))

/-- `s` with the frame or control operation of a table word as the input of the very next step. -/
def State.withFetchWord (s : State) (nbits w : Nat) : State := { s with inputs := tableInput nbits w :: s.inputs }

end Sys2Proof.Machine
end

