-- ==== Sys2Proof/Safety.lean ====
section
/-! DEFINITION. The terms the claims are stated in: the machine's invariant, the form in which a step's row ends, valid
LEB128 encodings, runs of rows, and the parts of a state that a frame may not touch. -/

namespace Sys2Proof.Machine

/-! ## The invariant -/

/-- The d-pad latch: at most one bit, inside the previous mask, empty exactly when that mask is (10_state.md rule R31,
45_report_extractors.md rule R263). -/
abbrev latchOk (prevMask latched : BitVec 2) : Prop :=
  latched ≠ 3#2 ∧ latched &&& prevMask = latched ∧ (latched = 0#2 ↔ prevMask = 0#2)

/-- The chunk registers while a sequence is open (rules R28, R29): the cursor is inside the declared total, the total
inside the buffer, and every byte below the cursor is written. -/
abbrev Slot.chunkOk (c : Cfg) (x : Slot) : Prop :=
  x.cstate = .accum →
    x.receivedLen ≤ x.declaredLen ∧ x.declaredLen ≤ c.chunkBufBytes
      ∧ ∀ a, a < x.receivedLen → Memory.read x.cb a ≠ none

/-- The identity and descriptor fields before their latches are set, and the two sets' bounds (rules R25, R26). -/
abbrev Slot.descOk (c : Cfg) (x : Slot) : Prop :=
  (x.arrivalSeen = false → x.vid = 0 ∧ x.pid = 0)
    ∧ (x.descSeen = false → x.guids = [] ∧ x.names = [] ∧ x.descPartial = false)
    ∧ x.guids.Nodup ∧ x.guids.length ≤ c.dsc.maxGuids ∧ (∀ g ∈ x.guids, g.length = c.dsc.guidBytes)
    ∧ x.names.Nodup ∧ x.names.length ≤ c.dsc.maxNames ∧ (∀ n ∈ x.names, n.length ≤ c.dsc.maxNameLen)

/-- The mapper and its children (rules R27, R31, R38): a kind that exists in this configuration; children only in a
LegacyDemux, of the kinds a child can have. -/
abbrev Slot.mapperOk (c : Cfg) (x : Slot) : Prop :=
  (x.mapper.kind = .gamepad → c.hasGamepad = true) ∧ (x.mapper.kind = .legacyDemux → c.hasLegacy = true)
    ∧ latchOk x.prevMask x.latched
    ∧ (∀ u ∈ x.children, u.kind = .none
        ∨ ((u.kind = .guitar ∨ u.kind = .drums) ∧ x.mapper.kind = .legacyDemux ∧ latchOk u.prevMask u.latched))

/-- The dedup table (rule R30): one byte at most for each of the 256 command ids. -/
abbrev Slot.seqOk (x : Slot) : Prop := Memory.wf x.seqTab = true ∧ Memory.below 256 x.seqTab = true

/-- What holds of every slot, valid or not: the chunk buffer is a memory of `CHUNK_BUF_BYTES` bytes and the dedup table
one of 256, both in canonical form; the two lengths have `LEN_W` bits; there is one child per user index of the legacy demultiplexer. -/
abbrev Slot.shapeOk (c : Cfg) (x : Slot) : Prop :=
  Memory.wf x.cb = true ∧ Memory.below c.chunkBufBytes x.cb = true ∧ x.seqOk
    ∧ x.declaredLen < 2 ^ c.lenW ∧ x.receivedLen < 2 ^ c.lenW
    ∧ x.children.length = c.lgyUsers

/-- What holds of every valid slot. -/
abbrev Slot.ok (c : Cfg) (x : Slot) : Prop := x.chunkOk c ∧ x.descOk c ∧ x.mapperOk c

/-- The tags of the valid slots. -/
def validTags (slots : List Slot) : List Key := (slots.filter (·.valid)).map (·.tag)

/-- The invariant of the block between steps: a well-formed configuration, `NSESS` slots, every slot in shape, every valid
slot consistent, "no two valid slots have equal tags" (rule R22), the reserved bits 15:9 of `EVFLAGS` read 0 (rule R40),
and no working register holds anything (rule R23). -/
abbrev State.Inv (s : State) : Prop :=
  s.cfg.wf = true ∧ s.slots.length = s.cfg.nSess ∧ (∀ x ∈ s.slots, x.shapeOk s.cfg)
    ∧ (∀ x ∈ s.slots, x.valid = true → x.ok s.cfg) ∧ (validTags s.slots).Nodup
    ∧ s.evflags &&& 0xFE00#16 = 0#16 ∧ s.work = Work.idle

/-! ## How a row ends -/

/-- The state in which a row ends the step, written from rules R321, R325, R326, R40 and R41: `slots` are the slots then,
`raised` the `EVFLAGS` bits the row raised, `ev` the sink operations it appended, `c` and `info` the result. Every other
register is as before the row. -/
def endedWith (slots : List Slot) (raised : BitVec 16) (ev : List Event) (c : Code) (info : BitVec 32) (s : State) :
    State :=
  { s with
    slots := slots
    evflags := s.evflags ||| raised
    lastCode := c.byte
    lastInfo := info
    lastSlot := slotByte s.work.sel
    work := { s.work with warn := s.work.warn ||| raised, stage := .done }
    events := s.events ++ ev
    result := some {
      slot := s.work.sel
      key := s.work.key
      code := c
      hdrValid := s.work.hdr.isSome
      cmd := (s.work.hdr.map (·.cmd)).getD 0
      seq := (s.work.hdr.map (·.seq)).getD 0
      flags := (s.work.hdr.map (·.flags)).getD 0
      info := info
      warn := s.work.warn ||| raised } }

/-- The state in which a row hands the message on to the next level: the slots, the flags raised, the sink operations
appended, the stage. Every other register is as before the row. -/
def passedOn (slots : List Slot) (raised : BitVec 16) (ev : List Event) (g : Stage) (s : State) : State :=
  { s with
    slots := slots
    evflags := s.evflags ||| raised
    work := { s.work with warn := s.work.warn ||| raised, stage := g }
    events := s.events ++ ev }

/-- The state in which a control operation ends (rules R321, R326): `sel` is the slot it selected, `key` its key, `raised`
the flags it raised, `ev` its sink operations. -/
def controlEnded (slots : List Slot) (sel : Option Nat) (key : Key) (raised : BitVec 16) (ev : List Event) (c : Code)
    (info : BitVec 32) (s : State) : State :=
  { s with
    slots := slots
    evflags := s.evflags ||| raised
    lastCode := c.byte
    lastInfo := info
    lastSlot := slotByte sel
    work := { key := key, sel := sel, hdr := none, openOk := false, ready := false, warn := raised, stage := .done }
    events := s.events ++ ev
    result := some { slot := sel, key := key, code := c, hdrValid := false, cmd := 0, seq := 0, flags := 0,
                     info := info, warn := raised } }

/-- Slot `x` without its mapper (rule R197). -/
def Slot.torn (x : Slot) : Slot :=
  { x with
    mapper := { x.mapper with kind := .none }
    children := if x.mapper.kind = .legacyDemux then x.children.map (fun u => { u with kind := .none }) else x.children }

/-- The `sink.close` operations that tear slot `i` down: none without a mapper, else one for each live child of a
LegacyDemux and one for the slot's own handle (rule R197). -/
def closes (i : Nat) (x : Slot) : List Event :=
  if x.mapper.kind = .none then []
  else (if x.mapper.kind = .legacyDemux then childCloses i 0 x.children else []) ++ [.sinkClose i none]

/-- Slot `x` with a mapper just constructed (rules R190, R46 third column). -/
def Slot.mapped (x : Slot) (k : Kind) (am : AxisMode) (pm : PickupMode) : Slot :=
  { x with
    mapper := { kind := k, axisMode := am, pickupMode := pm }
    prevMask := 0
    latched := 0
    out := Out.zero
    children := x.children.map (fun u => { u with kind := .none }) }

/-- The sink operations of a construction on slot `n` (rules R190, R301). -/
def opens (n : Nat) (k : Kind) : List Event :=
  .sinkOpen n none k :: (if k = .legacyDemux then [.requestConnectedDevices n] else [])

/-- The step has selected slot `n`, which exists: the state every row of levels 1 to 3 runs in (rule R130). -/
abbrev OnSlot (n : Nat) (s : State) : Prop := s.work.sel = some n ∧ n < s.slots.length

/-- The submits among a step's sink operations (rule R347). -/
def submits (ev : List Event) : List Event :=
  ev.filter (fun e => match e with | .sinkSubmit .. => true | _ => false)

/-- The place of an output event in the order of rule R347: closes, opens, the upstream request, the submit. -/
def Event.rank : Event → Nat
  | .sinkClose .. => 0
  | .sinkOpen .. => 1
  | .requestConnectedDevices .. => 2
  | .sinkSubmit .. => 3

/-- The inputs whose record leaves `LAST_*` as they are: the control operation `CSR_READ` (rules R321, R346) and one with
an unassigned number (rule R340, 93_implementation_defined.md U5). -/
def Input.keepsLast : Input → Bool
  | .control op _ _ _ => op == 3 || decide (4 < op)
  | .deliver .. => false

/-! ## LEB128 -/

/-- A valid LEB128 encoding (rule R94): bit 7 is set in every byte but the last. -/
def validLeb : List Byte → Bool
  | [] => false
  | [b] => !b.getLsbD 7
  | b :: rest => b.getLsbD 7 && validLeb rest

/-- Its value (rule R9): the sum over i of `(b_i AND 0x7F) * 2^(7*i)`. -/
def lebValue : (i : Nat) → List Byte → Nat
  | _, [] => 0
  | i, b :: rest => (b &&& 0x7F#8).toNat * 2 ^ (7 * i) + lebValue (i + 1) rest

/-- Every byte has bit 7 set: the beginning of a LEB128 field that is not ended. -/
def unendedLeb (bs : List Byte) : Bool := bs.all (fun b => b.getLsbD 7)

/-! ## Descriptors -/

/-- Descriptor `d` passes the header checks of rule R211, with its offset table at `t` and its declared length `bound`. -/
abbrev DscHeader (c : Cfg) (d : List Byte) (t bound : Nat) : Prop :=
  t = (le16 d c.dsc.hlenOff).toNat ∧ bound = (le16 d c.dsc.dlenOff).toNat
    ∧ c.dsc.hdrMin ≤ t ∧ t ≤ bound ∧ bound ≤ d.length

/-- Entry `k` of the offset table lies inside the bound and is 0: the list is absent (rule R213). -/
abbrev ListAbsent (d : List Byte) (t bound k : Nat) : Prop := t + 2 * k + 2 ≤ bound ∧ le16 d (t + 2 * k) = 0

/-- Entry `k` of the offset table, or the count byte it points to, lies outside the bound (rules R213, R217, R218). -/
abbrev ListOutside (d : List Byte) (t bound k : Nat) : Prop :=
  bound < t + 2 * k + 2 ∨ (le16 d (t + 2 * k) ≠ 0 ∧ bound < t + (le16 d (t + 2 * k)).toNat + 1)

/-- Entry `k` of the offset table points, relative to the table's start, to a count byte at `p` inside the bound, and the
bytes `body` follow it inside the bound (rules R212, R213, R214). -/
abbrev ListAt (d : List Byte) (t bound k p : Nat) (body : List Byte) : Prop :=
  t + 2 * k + 2 ≤ bound ∧ le16 d (t + 2 * k) ≠ 0 ∧ p = t + (le16 d (t + 2 * k)).toNat
    ∧ p + 1 + body.length ≤ bound ∧ slice d (p + 1) body.length = body

/-- A class name as the list holds it: two bytes of length, the low one first, and its bytes (rules R61, R218). -/
def nameBytes (name : List Byte) : List Byte :=
  BitVec.ofNat 8 name.length :: BitVec.ofNat 8 (name.length / 256) :: name

/-! ## Runs of rows and of steps -/

/-- Run `k` steps. -/
def runSteps : Nat → State → Host.Outcome State Fault Refusal
  | 0, s => .next s
  | k + 1, s => andThen (step s) (runSteps k)

/-- The input that delivers an encoded instruction: its frame with the key and the sink's answers, or its control
operation. -/
def wireInput (key : Key) (openOk ready : Bool) : Wire → Input
  | .frame bytes => .deliver key bytes openOk ready
  | .control op k n mask => .control op k n mask

/-- Run rows one after the other on one slot (the rows of successive frames of one session). -/
def execAll : List Instr → State → Host.Outcome State Fault Refusal
  | [], s => .next s
  | i :: rest, s => andThen (exec i s) (execAll rest)

/-- The continuation packets of a chunked message from the offset `off` on, and the terminator (rule R111); `hs` numbers
the packets' headers. -/
def chunkRows (hs : Nat → Hdr) (total : Nat) : (i off : Nat) → List (List Byte) → List Instr
  | i, _, [] => [.chkE (hs i) total]
  | i, off, p :: rest => .chkD (hs i) off p :: chunkRows hs total (i + 1) (off + p.length) rest

/-- The rows of the pseudo-instruction `CHUNKED` (rule R111) for the message `first ++ rest.flatten`. -/
def chunkedRows (hs : Nat → Hdr) (first : List Byte) (rest : List (List Byte)) : List Instr :=
  let total := (first ++ rest.flatten).length
  .chkS (hs 0) total first :: chunkRows hs total 1 first.length rest

end Sys2Proof.Machine
end

