-- ==== Sys2Proof/Certificates/Slice0/Obligations.lean ====
section
/-! DEFINITION. The statements for the provers: def Obligations.<Name> : Prop, each with the rule of spec/ it formalises. -/

open Sys2Proof Sys2Proof.Machine

/-! ## Encoding -/

/-- Rules R91, R92, R95 to R99, R110: decoding the encoding of a well-formed instruction gives it back, at every level of
the opcode map, in every context that selects it and for every well-formed configuration. -/
def Obligations.DecodeEncodeRoundTrip : Prop :=
  ∀ (x : Ctx) (i : Instr), x.cfg.wf = true → i.wf x = true → decode x i.level (encode x.cfg i) = .ok i

/-- Rules R138, R9: `read_leb` reads every valid LEB128 encoding of at most `VARINT_MAX_BYTES` bytes, minimal or not,
wherever it stands in a frame, and consumes exactly its bytes; the value is the exact sum, below `2^LEN_W`. -/
def Obligations.ReadLebReadsEveryEncoding : Prop :=
  ∀ (c : Cfg) (pre enc post : List Byte) (which : Nat),
    validLeb enc = true → enc.length ≤ c.varintMaxBytes →
      readLeb c (pre ++ enc ++ post) which pre.length = .value (lebValue 0 enc) (pre.length + enc.length)
        ∧ lebValue 0 enc < 2 ^ c.lenW

/-- Rule R133: `VARINT_MAX_BYTES` continuation bytes are over-long whatever follows; a frame that ends inside the field is
truncated; each reports the field and the cursor. -/
def Obligations.LebFieldRejections : Prop :=
  ∀ (c : Cfg) (fr : List Byte) (which pos : Nat),
    ((∀ i, i < c.varintMaxBytes → ∃ b, fr[pos + i]? = some b ∧ b.getLsbD 7 = true) →
      readLeb c fr which pos = .bad (.varintLong which (pos + c.varintMaxBytes)))
    ∧ (∀ k, k < c.varintMaxBytes → fr.length = pos + k →
        (∀ i, i < k → ∃ b, fr[pos + i]? = some b ∧ b.getLsbD 7 = true) →
          readLeb c fr which pos = .bad (.varintTrunc which (pos + k)))

/-- Rules R95, R132, R134, R136: a frame made of the prefix, a length field, an index field iff the frame is chunked, the
payload and any trailing bytes parses into exactly those parts, for every encoding of the two fields. -/
def Obligations.FrameParsesIntoItsParts : Prop :=
  ∀ (c : Cfg) (h : Hdr) (lenEnc idxEnc payload post : List Byte), c.wf = true →
    validLeb lenEnc = true → lenEnc.length ≤ c.varintMaxBytes → lebValue 0 lenEnc = payload.length →
    (c.hdr.chunked h.flags = false →
      parseFrame c (encodePrefix c h ++ lenEnc ++ payload ++ post)
        = .ok { hdr := h, len := payload.length, idx := none, hsize := 3 + lenEnc.length, payload := payload,
                trailing := decide (0 < post.length) })
    ∧ (c.hdr.chunked h.flags = true → validLeb idxEnc = true → idxEnc.length ≤ c.varintMaxBytes →
      parseFrame c (encodePrefix c h ++ lenEnc ++ idxEnc ++ payload ++ post)
        = .ok { hdr := h, len := payload.length, idx := some (lebValue 0 idxEnc),
                hsize := 3 + lenEnc.length + idxEnc.length, payload := payload, trailing := decide (0 < post.length) })

/-- Rules R91 to R98: words written out from the spec's encodings (examples of rules R134, R151, R155, R156 and of the
opcode map) decode to the instructions they stand for. -/
def Obligations.WrittenOutWordsDecode : Prop :=
  decode (Ctx.fresh refCfg) .framing (.frame [0x20, 0x00, 0x05, 0x02, 0xAA, 0xBB]) = .ok (.msg ⟨0x20, 0x00, 5⟩ [0xAA, 0xBB])
  ∧ decode (Ctx.fresh refCfg) .framing (.frame [0x04, 0xA0, 0x09, 0x00, 0x00]) = .ok (.chkNop ⟨0x04, 0xA0, 9⟩)
  ∧ decode (Ctx.fresh refCfg) .framing (.frame [0x1E, 0xC0, 0x01, 0x02, 0x08, 0x01, 0x02])
      = .ok (.chkS ⟨0x1E, 0xC0, 1⟩ 8 [1, 2])
  ∧ decode ⟨refCfg, some 79, .none⟩ .framing (.frame [0x04, 0xA0, 0x03, 0x00, 0x4F]) = .ok (.chkE ⟨0x04, 0xA0, 3⟩ 79)
  ∧ decode (Ctx.fresh refCfg) .dispatch (.frame [0x1E, 0x20, 0x04, 0x01, 0x55]) = .ok (.serial ⟨0x1E, 0x20, 4, [0x55]⟩)
  ∧ decode ⟨refCfg, none, .drums⟩ .report (.frame [0x20, 0x00, 0x01, 0x06, 0x00, 0x00, 0x0F, 0x00, 0x70, 0x00])
      = .ok (.inputDrm ⟨0x20, 0x00, 1, [0x00, 0x00, 0x0F, 0x00, 0x70, 0x00]⟩)
  ∧ decode (Ctx.fresh refCfg) .control (.control 4 0 0 0x01FF) = .ok (.csrW1c 0 0x01FF)

/-! ## The step -/

/-- Rule R130, rules R97, R98: a frame that is not oversize, finds a slot and decodes is run: the step is the decoded
level-1 row on the selected slot (with the header written, and `EV_TRAILING` if bytes follow the payload), then the rows
that its stage waits for, then the working registers cleared. The row that follows is the one the decoder gives for the
message that waits; a step that has ended runs no further row. -/
def Obligations.StepRunsDecodedFrame : Prop :=
  (∀ (s s1 : State) (key : Key) (bytes : List Byte) (o r : Bool) (rest : List Input) (i : Instr),
    s.inputs = .deliver key bytes o r :: rest → bytes.length ≤ s.cfg.frameMax →
    route key (beginFrame key o r (clearPorts { s with inputs := rest })) = some s1 →
    decode s1.ctx .framing (.frame bytes) = .ok i →
    ∃ p, parseFrame s1.cfg bytes = .ok p ∧ i = decodeFraming s1.ctx p
      ∧ step s = andThen (andThen (andThen
          (exec i (if p.trailing then raiseEv .trailing (setHdr (some p.hdr) s1) else setHdr (some p.hdr) s1))
          runNext) runNext) (fun t => .next (endStep t)))
  ∧ ∀ (s : State) (m : Message),
    (s.work.stage = .message m → runNext s = exec (decodeMessage s.cfg m) s)
    ∧ (s.work.stage = .report m → runNext s = exec (decodeReport s.cfg s.cur.mapper.kind m) s)
    ∧ (s.work.stage = .done → runNext s = .next s)

/-- Rules R99, R340: a control operation with an assigned number is its row alone, run on empty output ports. -/
def Obligations.StepRunsControlOperation : Prop :=
  ∀ (s : State) (x : Ctx) (op n : Nat) (key : Key) (mask : BitVec 16) (rest : List Input) (i : Instr),
    s.inputs = .control op key n mask :: rest → decode x .control (.control op key n mask) = .ok i →
    step s = andThen (exec i (clearPorts { s with inputs := rest })) (fun t => .next (endStep t))

/-- Rule R340: "An operation number above 4 is ignored with `OK_CONTROL`, `info` = 0xFFFFFFFF": it emits that record and
"changes nothing" (93_implementation_defined.md U5). That `LAST_*` stay too, where rule R321 excepts only `CSR_READ` by
name, is the model's reading of these words, notes/assumptions/8.md. -/
def Obligations.UnassignedControlOperationIgnored : Prop :=
  ∀ (s : State) (op n : Nat) (key : Key) (mask : BitVec 16) (rest : List Input),
    s.inputs = .control op key n mask :: rest → 4 < op →
    step s = .next { s with
      inputs := rest
      work := Work.idle
      events := []
      readData := none
      result := some { slot := none, key := 0, code := .okControl, hdrValid := false, cmd := 0, seq := 0, flags := 0,
                       info := 0xFFFFFFFF, warn := 0 } }

/-- Rules R8, R321, R347, R41: a step with an input always answers a next state; it takes that input alone and emits one
result record (`result` holds no more), which `LAST_*` repeat; they stay as they were in a `CSR_READ`, and in an operation
with an unassigned number by the reading of notes/assumptions/8.md; its sink operations come in the order close, open,
upstream request, submit, with at most one submit; no working register stays set. With no input the state stays as it is:
that clause is the model's own choice, notes/assumptions/1.md (no rule names a step without an input; rule R350 says that
nothing changes between steps). -/
def Obligations.StepIsTotalWithOneRecord : Prop :=
  (∀ (s : State) (inp : Input) (rest : List Input), s.inputs = inp :: rest →
    ∃ t res, step s = .next t ∧ t.inputs = rest ∧ t.result = some res
      ∧ (inp.keepsLast = false → t.lastCode = res.code.byte ∧ t.lastInfo = res.info ∧ t.lastSlot = slotByte res.slot)
      ∧ (inp.keepsLast = true → t.lastCode = s.lastCode ∧ t.lastInfo = s.lastInfo ∧ t.lastSlot = s.lastSlot)
      ∧ (t.events.map Event.rank).Pairwise (· ≤ ·) ∧ (submits t.events).length ≤ 1 ∧ t.work = Work.idle)
  ∧ (∀ s : State, s.inputs = [] → step s = .next s)

/-- Rules R22, R26, R27, R28, R29, R30, R31, R38, R40, R46: every step keeps the invariant of the block, from every state
that has it. -/
def Obligations.StepKeepsInvariant : Prop :=
  ∀ s t : State, s.Inv → step s = .next t → t.Inv

/-- The state after reset has the invariant, under `REFCFG` and under every well-formed configuration. -/
def Obligations.ResetHasInvariant : Prop :=
  State.reset.Inv ∧ ∀ c : Cfg, c.wf = true → (State.resetFor c).Inv

/-- Rules R361, R46, R38, R4, for the values the spec gives, under every configuration: `NSESS` slots, every one with
`valid` = 0 and, where the legacy demultiplexer exists, `LGY_NUSERS` children; `EVFLAGS`, `LAST_CODE`, `LAST_INFO`,
`LAST_SLOT` are 0; no step is in progress. Two clauses are the model's own: that the three output ports (`result`, `events`,
`readData`) are empty after reset (notes/assumptions/18.md), and that the configuration stands in the state, `State.reset`
being the block with `REFCFG` (notes/assumptions/2.md). -/
def Obligations.ResetValues : Prop :=
  State.reset.cfg = refCfg ∧ State.reset = State.resetFor refCfg
    ∧ ∀ (c : Cfg) (s : State), s = State.resetFor c →
      s.cfg = c ∧ s.slots.length = c.nSess ∧ (∀ x ∈ s.slots, x.valid = false ∧ x.children.length = c.lgyUsers)
      ∧ s.evflags = 0 ∧ s.lastCode = 0 ∧ s.lastInfo = 0 ∧ s.lastSlot = 0
      ∧ s.work = Work.idle ∧ (∀ k, findKey k s.slots = none)
      ∧ s.result = none ∧ s.events = [] ∧ s.readData = none

/-- Rule R363: "no reset changes it, no operation writes it". -/
def Obligations.ConfigurationNeverChanges : Prop :=
  ∀ s t : State, step s = .next t → t.cfg = s.cfg

/-- Rules R71, R352: "a step reads and writes one slot": the step of a frame leaves every slot but the one its result
record names as it was, its open chunk sequence and its chunk buffer included. -/
def Obligations.FrameTouchesOnlyItsSlot : Prop :=
  ∀ (s t : State) (key : Key) (bytes : List Byte) (o r : Bool) (rest : List Input),
    s.inputs = .deliver key bytes o r :: rest → step s = .next t →
    t.slots.length = s.slots.length
      ∧ ∃ res, t.result = some res ∧ ∀ j, res.slot ≠ some j → t.slot j = s.slot j

/-- Rules R71, R352: what a frame's step does to its session, and what it reports, depends on that session and the
configuration alone: two blocks that agree on the session of the key answer the same, whatever their other sessions,
their `EVFLAGS` and their `LAST_*` hold. So do two blocks in which the key has no session and the frame allocates the same
slot, when the free values that the allocation draws are the same (notes/assumptions/4.md), and so are the slot's `CB` (rule
R372) and its children, whose fields but `kind` an allocation keeps in this model (notes/assumptions/26.md): whatever else an
earlier session left in the slot plays no part. -/
def Obligations.SessionsDoNotInterfere : Prop :=
  ∀ (s s' t t' : State) (key : Key) (bytes : List Byte) (o r : Bool) (rest rest' : List Input) (n : Nat),
    s.inputs = .deliver key bytes o r :: rest → s'.inputs = .deliver key bytes o r :: rest' →
    s.cfg = s'.cfg →
    ((findKey key s.slots = some n ∧ findKey key s'.slots = some n ∧ s.slot n = s'.slot n)
      ∨ (findKey key s.slots = none ∧ findKey key s'.slots = none ∧ findFree s.slots = some n ∧ findFree s'.slots = some n
        ∧ s.draws = s'.draws ∧ (s.slot n).cb = (s'.slot n).cb ∧ (s.slot n).children = (s'.slot n).children)) →
    step s = .next t → step s' = .next t' →
    t.result = t'.result ∧ t.events = t'.events
      ∧ (findKey key s.slots = some n ∨ bytes.length ≤ s.cfg.frameMax → t.slot n = t'.slot n)

/-- Rule R335: the frame port "cannot reset the block, free a slot, clear `EVFLAGS` or read a register". -/
def Obligations.FramePortReach : Prop :=
  ∀ (s t : State) (key : Key) (bytes : List Byte) (o r : Bool) (rest : List Input),
    s.inputs = .deliver key bytes o r :: rest → step s = .next t →
    (∀ j, (s.slot j).valid = true → (t.slot j).valid = true ∧ (t.slot j).tag = (s.slot j).tag)
      ∧ t.evflags &&& s.evflags = s.evflags ∧ t.readData = none

/-- Rules R375, R25, R26: once set, `arrival_seen`, `desc_seen` and `fb_warned` stay set under frames; vendor and product
id and the descriptor are immutable; a live mapper is never replaced. -/
def Obligations.OnceOnlyLatches : Prop :=
  ∀ (s t : State) (key : Key) (bytes : List Byte) (o r : Bool) (rest : List Input) (j : Nat),
    s.inputs = .deliver key bytes o r :: rest → step s = .next t → (s.slot j).valid = true →
    ((s.slot j).arrivalSeen = true →
      (t.slot j).arrivalSeen = true ∧ (t.slot j).vid = (s.slot j).vid ∧ (t.slot j).pid = (s.slot j).pid)
    ∧ ((s.slot j).descSeen = true →
      (t.slot j).descSeen = true ∧ (t.slot j).guids = (s.slot j).guids ∧ (t.slot j).names = (s.slot j).names
        ∧ (t.slot j).descPartial = (s.slot j).descPartial)
    ∧ ((s.slot j).fbWarned = true → (t.slot j).fbWarned = true)
    ∧ ((s.slot j).mapper.kind ≠ .none → (t.slot j).mapper = (s.slot j).mapper)

/-- Rules R158, R159: an open chunk sequence stays as it is, bytes included, under every unchunked frame and under every
frame that HDR or the payload extraction rejects; there is no timeout. -/
def Obligations.OpenSequenceSurvivesOtherFrames : Prop :=
  ∀ (s t : State) (key : Key) (bytes : List Byte) (o r : Bool) (rest : List Input) (j : Nat),
    s.inputs = .deliver key bytes o r :: rest → step s = .next t → (s.slot j).valid = true →
    (∀ p, parseFrame s.cfg bytes = .ok p → p.idx = none) →
    (t.slot j).cstate = (s.slot j).cstate ∧ (t.slot j).declaredLen = (s.slot j).declaredLen
      ∧ (t.slot j).receivedLen = (s.slot j).receivedLen ∧ (t.slot j).cb = (s.slot j).cb

/-! ## Results and exceptions -/

/-- Rules R326, R325, R331, R321, R41: `finish` emits the record, updates `LAST_*`, ends the step, and sets no flag; an
`info` below 2^32 is reported as it is (of a larger one nothing is stated, notes/assumptions/6.md). `raise` moreover sets
the flag of its class and no other (Pending none), with the flag among the record's `warn` bits; no slot changes and nothing
is rolled back. Rule R322: the number and the class of every code. Rule R41: `LAST_SLOT` is 0 without a slot, else bit 7
set over the slot's number (of a number above 127 nothing is stated, notes/assumptions/7.md). -/
def Obligations.FinishAndRaiseEndTheStep : Prop :=
  (∀ e ∈ [(Code.okReport, 0x00#8, Class.ok), (.okNoopChunk, 0x01#8, .ok), (.okDuplicate, 0x02#8, .ok),
      (.okIgnored, 0x03#8, .ok), (.okArrival, 0x04#8, .ok), (.okDescriptor, 0x05#8, .ok), (.okKey, 0x06#8, .ok),
      (.okLgy, 0x07#8, .ok), (.okControl, 0x08#8, .ok), (.pending, 0x10#8, .pending), (.invHdrShort, 0x20#8, .invalid),
      (.invVarintTrunc, 0x21#8, .invalid), (.invVarintLong, 0x22#8, .invalid), (.invPayloadShort, 0x23#8, .invalid),
      (.invFrameOversize, 0x24#8, .invalid), (.invChunkNoStart, 0x28#8, .invalid), (.invChunkRestart, 0x29#8, .invalid),
      (.invChunkOrder, 0x2A#8, .invalid), (.invChunkBounds, 0x2B#8, .invalid), (.invChunkCapacity, 0x2C#8, .invalid),
      (.invDescHeader, 0x30#8, .invalid), (.invArrivalShort, 0x31#8, .invalid), (.unsNoSlot, 0x40#8, .unsupported),
      (.unsNoSink, 0x41#8, .unsupported), (.unsNotReady, 0x42#8, .unsupported), (.disconnected, 0x50#8, .disconnected)],
    e.1.byte = e.2.1 ∧ e.1.cls = e.2.2)
  ∧ slotByte none = 0 ∧ (∀ i, i < 128 → (slotByte (some i)).toNat = 128 + i) ∧ (∀ i, (slotByte (some i)).getLsbD 7 = true)
  ∧ ∀ (s : State) (v : Nat),
    (∀ c : Code, finish c v s = endedWith s.slots 0 [] c (info32 v) s) ∧ (v < 2 ^ 32 → (info32 v).toNat = v)
    ∧ (∀ c : Code, c.cls = .invalid → raise c v s = endedWith s.slots 0x0001 [] c (info32 v) s)
    ∧ (∀ c : Code, c.cls = .unsupported → raise c v s = endedWith s.slots 0x0002 [] c (info32 v) s)
    ∧ (∀ c : Code, c.cls = .pending → raise c v s = endedWith s.slots 0 [] c (info32 v) s)

/-- Rules R135, R131, R376: a frame longer than `FRAME_MAX` is Invalid before routing; a new key with every slot valid ends
in `UNS_NO_SLOT`; either record has no slot and no header, no slot changes or is allocated, and nothing but `EVFLAGS` and
`LAST_*` changes. -/
def Obligations.FrameTurnedAwayBeforeItsHeader : Prop :=
  ∀ (s : State) (key : Key) (bytes : List Byte) (o r : Bool) (rest : List Input),
    s.inputs = .deliver key bytes o r :: rest →
    (s.cfg.frameMax < bytes.length →
      step s = .next (endStep (endedWith s.slots 0x0001 [] .invFrameOversize (info32 bytes.length)
        (beginFrame key o r (clearPorts { s with inputs := rest })))))
    ∧ (bytes.length ≤ s.cfg.frameMax → (∀ x ∈ s.slots, x.valid = true ∧ x.tag ≠ key) →
      step s = .next (endStep (endedWith s.slots 0x0002 [] .unsNoSlot 0
        (beginFrame key o r (clearPorts { s with inputs := rest })))))

/-- Rule R131: a key that some valid slot holds selects the first such slot and changes nothing; another key takes the
lowest free slot, in the state of a new session (rule R46); a full table answers nothing. Three clauses are not in those
rules: that `CB` keeps its bytes is rule R372 with notes/assumptions/5.md (rule R46 calls it unspecified there), that a child
keeps its fields but `kind` is the model's choice, notes/assumptions/26.md, and `draws` is the model's own counter of free
values, notes/assumptions/4.md. -/
def Obligations.RouteSelectsOrAllocates : Prop :=
  ∀ (s : State) (key : Key),
    (∀ i, findKey key s.slots = some i →
      (s.slot i).valid = true ∧ (s.slot i).tag = key ∧ route key s = some { s with work := { s.work with sel := some i } })
    ∧ (∀ i, findKey key s.slots = none → findFree s.slots = some i →
      (s.slot i).valid = false ∧ (∀ j, j < i → (s.slot j).valid = true)
      ∧ ∃ dl rl, dl < 2 ^ s.cfg.lenW ∧ rl < 2 ^ s.cfg.lenW
        ∧ route key s = some { s with
            draws := s.draws + 1
            work := { s.work with sel := some i }
            slots := s.slots.set i {
              valid := true, tag := key, vid := 0, pid := 0, arrivalSeen := false, descSeen := false, guids := [],
              names := [], descPartial := false,
              mapper := { kind := .none, axisMode := .full, pickupMode := .continuous },
              fbWarned := false, cstate := .idle, declaredLen := dl, receivedLen := rl, cb := (s.slot i).cb,
              seqTab := [], prevMask := 0, latched := 0, out := Out.zero,
              children := (s.slot i).children.map (fun u => { u with kind := .none }) } })
    ∧ (findKey key s.slots = none → (∀ x ∈ s.slots, x.valid = true) → route key s = none)

/-- Rules R132, R133, R134, R136: which frames the header decoder and the payload extraction reject, and as what: fewer than
three bytes; a length field (`which` = 0) or an index field (`which` = 1) that the frame's end cuts off or that has
`VARINT_MAX_BYTES` bytes without an end; after well-formed fields, fewer bytes than the length says. The header kept is the
prefix's bytes. Rule R322: such a frame ends in the Invalid result of its cause, on the slot that ROUTE selected, with the
header in the record once the prefix was read. -/
def Obligations.MalformedFrameReportsItsCause : Prop :=
  (∀ (c : Cfg) (fr : List Byte), fr.length < 3 → parseFrame c fr = .bad none (.hdrShort fr.length))
  ∧ (∀ (c : Cfg) (fr : List Byte) (h : Option Hdr) (why : Reject), c.wf = true → 3 ≤ fr.length →
      parseFrame c fr = .bad h why →
      ∃ hd, h = some hd ∧ fr[c.hdr.cmdOff]? = some hd.cmd ∧ fr[c.hdr.flagsOff]? = some hd.flags
        ∧ fr[c.hdr.seqOff]? = some hd.seq)
  ∧ (∀ (c : Cfg) (h : Hdr) (lenEnc idxEnc bs tail : List Byte), c.wf = true →
      validLeb lenEnc = true → lenEnc.length ≤ c.varintMaxBytes →
      validLeb idxEnc = true → idxEnc.length ≤ c.varintMaxBytes → unendedLeb bs = true →
      (bs.length < c.varintMaxBytes →
        parseFrame c (encodePrefix c h ++ bs) = .bad (some h) (.varintTrunc 0 (3 + bs.length))
        ∧ (c.hdr.chunked h.flags = true → parseFrame c (encodePrefix c h ++ lenEnc ++ bs)
            = .bad (some h) (.varintTrunc 1 (3 + lenEnc.length + bs.length))))
      ∧ (bs.length = c.varintMaxBytes →
        parseFrame c (encodePrefix c h ++ bs ++ tail) = .bad (some h) (.varintLong 0 (3 + bs.length))
        ∧ (c.hdr.chunked h.flags = true → parseFrame c (encodePrefix c h ++ lenEnc ++ bs ++ tail)
            = .bad (some h) (.varintLong 1 (3 + lenEnc.length + bs.length))))
      ∧ (tail.length < lebValue 0 lenEnc →
        (c.hdr.chunked h.flags = false →
          parseFrame c (encodePrefix c h ++ lenEnc ++ tail) = .bad (some h) (.payloadShort tail.length))
        ∧ (c.hdr.chunked h.flags = true →
          parseFrame c (encodePrefix c h ++ lenEnc ++ idxEnc ++ tail) = .bad (some h) (.payloadShort tail.length))))
  ∧ ∀ (s s1 : State) (key : Key) (bytes : List Byte) (o r : Bool) (rest : List Input) (h : Option Hdr) (why : Reject),
    s.inputs = .deliver key bytes o r :: rest → bytes.length ≤ s.cfg.frameMax →
    route key (beginFrame key o r (clearPorts { s with inputs := rest })) = some s1 →
    parseFrame s1.cfg bytes = .bad h why →
    ((why = .hdrShort bytes.length ∧ h = none ∧ bytes.length < 3 ∧
        step s = .next (endStep (endedWith s1.slots 0x0001 [] .invHdrShort (info32 bytes.length) (setHdr h s1))))
     ∨ (∃ which pos, why = .varintTrunc which pos ∧ pos = bytes.length ∧ h.isSome = true ∧
        step s = .next (endStep (endedWith s1.slots 0x0001 [] .invVarintTrunc (info32 (which + 256 * pos)) (setHdr h s1))))
     ∨ (∃ which pos, why = .varintLong which pos ∧ pos ≤ bytes.length ∧ h.isSome = true ∧
        step s = .next (endStep (endedWith s1.slots 0x0001 [] .invVarintLong (info32 (which + 256 * pos)) (setHdr h s1))))
     ∨ (∃ present, why = .payloadShort present ∧ present ≤ bytes.length ∧ h.isSome = true ∧
        step s = .next (endStep (endedWith s1.slots 0x0001 [] .invPayloadShort (info32 present) (setHdr h s1)))))

/-! ## Level 1: framing, the reassembler, the deduplicator -/

/-- Rules R137, R171: an unchunked frame goes to DDP: the sequence last accepted for its command id on this slot is
dropped as a duplicate, any other is remembered and goes on to dispatch; nothing else of the slot changes, the chunk
state and `CB` included. -/
def Obligations.MessagePassesOrIsDuplicate : Prop :=
  ∀ (n : Nat) (s : State) (h : Hdr) (p : List Byte), OnSlot n s →
    (Memory.read (s.slot n).seqTab h.cmd.toNat = some h.seq →
      exec (.msg h p) s
        = .next (endedWith s.slots 0 [] .okDuplicate (BitVec.ofNat 32 (h.cmd.toNat + 256 * h.seq.toNat)) s))
    ∧ (Memory.read (s.slot n).seqTab h.cmd.toNat ≠ some h.seq →
      ∃ tab, (∀ c, Memory.read tab c = if c = h.cmd.toNat then some h.seq else Memory.read (s.slot n).seqTab c)
        ∧ exec (.msg h p) s = .next (passedOn (s.slots.set n { s.slot n with seqTab := tab }) 0 []
            (.message ⟨h.cmd, h.flags, h.seq, p⟩) s))

/-- Rule R173, for unchunked messages: of two consecutive frames of one session with equal command id and equal sequence,
the second ends in `OK_DUPLICATE`, with no slot changed and no sink operation, whatever their payloads. -/
def Obligations.SecondEqualMessageIsDuplicate : Prop :=
  ∀ (s t u : State) (key : Key) (b1 b2 : List Byte) (o1 r1 o2 r2 : Bool) (rest : List Input) (p1 p2 : Parsed)
    (res : Result) (n : Nat),
    s.inputs = .deliver key b1 o1 r1 :: .deliver key b2 o2 r2 :: rest →
    parseFrame s.cfg b1 = .ok p1 → p1.idx = none → parseFrame s.cfg b2 = .ok p2 → p2.idx = none →
    p1.hdr.cmd = p2.hdr.cmd → p1.hdr.seq = p2.hdr.seq → b2.length ≤ s.cfg.frameMax →
    step s = .next t → t.result = some res → res.slot = some n → step t = .next u →
    ∃ res', u.result = some res' ∧ res'.code = .okDuplicate ∧ res'.slot = some n ∧ u.slots = t.slots ∧ u.events = []

/-- Rule R151: a chunked frame with index 0 and an empty payload, whatever `chunk_start` is and whatever the slot's chunk
state, is `CHK.NOP`; it ends in `OK_NOOP_CHUNK` and changes no slot. -/
def Obligations.NoopChunkChangesNothing : Prop :=
  (∀ (x : Ctx) (p : Parsed), p.idx = some 0 → p.len = 0 → decodeFraming x p = .chkNop p.hdr)
  ∧ ∀ (s : State) (h : Hdr), exec (.chkNop h) s = .next (endedWith s.slots 0 [] .okNoopChunk 0 s)

/-- Rules R152, R154, R155, R158: a start packet that opens a sequence (or restarts one of the same total) and fits:
Pending, the cursor after its payload; its bytes stand at offset 0, every other byte of `CB` is as before. One that ends
Invalid leaves the slot Idle and no byte of `CB` changed: another total while a sequence is open, a total beyond the
buffer, a payload beyond the total. -/
def Obligations.StartPacketOpensOrRejects : Prop :=
  ∀ (n : Nat) (s : State) (h : Hdr) (x : Nat) (p : List Byte), OnSlot n s →
    (((s.slot n).cstate = .accum → (s.slot n).declaredLen = x) → x ≤ s.cfg.chunkBufBytes → p.length ≤ x →
    ∃ cb, (∀ a, Memory.read cb a = if a < p.length then p[a]? else Memory.read (s.slot n).cb a)
      ∧ exec (.chkS h x p) s = .next (endedWith
          (s.slots.set n { s.slot n with cstate := .accum, declaredLen := x, receivedLen := p.length, cb := cb })
          0 [] .pending (info32 p.length) s))
    ∧ ((s.slot n).cstate = .accum → (s.slot n).declaredLen ≠ x →
      exec (.chkS h x p) s = .next (endedWith (s.slots.set n { s.slot n with cstate := .idle }) 0x0001 []
        .invChunkRestart (info32 x) s))
    ∧ (((s.slot n).cstate = .accum → (s.slot n).declaredLen = x) → s.cfg.chunkBufBytes < x →
      exec (.chkS h x p) s = .next (endedWith (s.slots.set n { s.slot n with cstate := .idle }) 0x0001 []
        .invChunkCapacity (info32 x) s))
    ∧ (((s.slot n).cstate = .accum → (s.slot n).declaredLen = x) → x ≤ s.cfg.chunkBufBytes → x < p.length →
      exec (.chkS h x p) s = .next (endedWith
        (s.slots.set n { s.slot n with cstate := .idle, declaredLen := x, receivedLen := 0 }) 0x0001 []
        .invChunkBounds (info32 p.length) s))

/-- Rules R154, R155: a continuation packet at the cursor that fits: Pending, the cursor moved by its payload; its bytes
stand at its offset, every other byte of `CB` is as before. -/
def Obligations.ContinuationPacketAppends : Prop :=
  ∀ (n : Nat) (s : State) (h : Hdr) (x : Nat) (p : List Byte), OnSlot n s →
    (s.slot n).cstate = .accum → x = (s.slot n).receivedLen → x + p.length ≤ (s.slot n).declaredLen →
    ∃ cb, (∀ a, Memory.read cb a = if x ≤ a ∧ a < x + p.length then p[a - x]? else Memory.read (s.slot n).cb a)
      ∧ exec (.chkD h x p) s = .next (endedWith
          (s.slots.set n { s.slot n with receivedLen := x + p.length, cb := cb }) 0 [] .pending (info32 (x + p.length)) s)

/-- Rules R153, R154, R155, R156: a continuation packet or a terminator while Idle changes nothing; a continuation packet
that is not at the cursor, or that goes beyond the total, and a terminator that comes before every byte was written
discard the sequence; no byte of `CB` changes. -/
def Obligations.ContinuationPacketRejected : Prop :=
  ∀ (n : Nat) (s : State) (h : Hdr) (x : Nat) (p : List Byte), OnSlot n s →
    ((s.slot n).cstate = .idle →
      exec (.chkD h x p) s = .next (endedWith s.slots 0x0001 [] .invChunkNoStart (info32 x) s))
    ∧ ((s.slot n).cstate = .accum → x ≠ (s.slot n).receivedLen →
      exec (.chkD h x p) s = .next (endedWith (s.slots.set n { s.slot n with cstate := .idle }) 0x0001 []
        .invChunkOrder (info32 x) s))
    ∧ ((s.slot n).cstate = .accum → x = (s.slot n).receivedLen → (s.slot n).declaredLen < x + p.length →
      exec (.chkD h x p) s = .next (endedWith (s.slots.set n { s.slot n with cstate := .idle }) 0x0001 []
        .invChunkBounds (info32 (x + p.length)) s))
    ∧ ((s.slot n).cstate = .idle →
      exec (.chkE h x) s = .next (endedWith s.slots 0x0001 [] .invChunkNoStart (info32 x) s))
    ∧ ((s.slot n).cstate = .accum → x = (s.slot n).declaredLen → (s.slot n).receivedLen ≠ x →
      exec (.chkE h x) s = .next (endedWith (s.slots.set n { s.slot n with cstate := .idle }) 0x0001 []
        .invChunkOrder (info32 x) s))

/-- Rules R156, R157: the terminator of a completely written sequence hands the bytes of `CB` below the total to DDP, with
the terminator's command id and sequence and its flags without the chunk bits, and leaves the slot Idle; DDP drops it as a
duplicate or remembers it. -/
def Obligations.TerminatorHandsOffTheMessage : Prop :=
  ∀ (n : Nat) (s : State) (h : Hdr) (x : Nat), OnSlot n s →
    (s.slot n).cstate = .accum → x = (s.slot n).declaredLen → (s.slot n).receivedLen = x →
    (∀ a, a < x → Memory.read (s.slot n).cb a ≠ none) →
    ∃ (fl : Byte) (data : List Byte), data.length = x ∧ (∀ a, a < x → data[a]? = Memory.read (s.slot n).cb a)
      ∧ (∀ i, i < 8 → fl.getLsbD i
          = (h.flags.getLsbD i && decide (i ≠ s.cfg.hdr.flagChunkStart) && decide (i ≠ s.cfg.hdr.flagChunk)))
      ∧ (Memory.read (s.slot n).seqTab h.cmd.toNat = some h.seq →
          exec (.chkE h x) s = .next (endedWith (s.slots.set n { s.slot n with cstate := .idle }) 0 [] .okDuplicate
            (BitVec.ofNat 32 (h.cmd.toNat + 256 * h.seq.toNat)) s))
      ∧ (Memory.read (s.slot n).seqTab h.cmd.toNat ≠ some h.seq →
          ∃ tab, (∀ c, Memory.read tab c = if c = h.cmd.toNat then some h.seq else Memory.read (s.slot n).seqTab c)
            ∧ exec (.chkE h x) s = .next (passedOn
                (s.slots.set n { s.slot n with cstate := .idle, seqTab := tab }) 0 []
                (.message ⟨h.cmd, fl, h.seq, data⟩) s))

/-- Rules R160, R157, R111: for every message of 1 to `CHUNK_BUF_BYTES` bytes and every split of it into parts, the start
packet's and any other but the last part possibly empty (an empty last part is in its encoding the terminator itself, rule
R156), a session in Idle ends Idle with a message whose data is the unsplit message, whose command, sequence and flags but
for the chunk bits are the terminator's (unless DDP knows the terminator's sequence as a duplicate). Said of the rows of
`CHUNKED` run one after the other, and of the frames themselves, delivered one after the other to the session of their key:
the packets' steps leave the terminator waiting and every other slot as it was, and the terminator's step hands that message
to level 2. -/
def Obligations.ChunkedMessageReassembles : Prop :=
  ∀ (n : Nat) (s : State) (hs : Nat → Hdr) (term : Hdr) (first : List Byte) (rest : List (List Byte)) (msg : List Byte),
    (s.slot n).cstate = .idle → msg = first ++ rest.flatten → term = hs (rest.length + 1) →
    (∀ p, (first :: rest).getLast? = some p → p ≠ []) → msg.length ≤ s.cfg.chunkBufBytes →
    Memory.read (s.slot n).seqTab term.cmd.toNat ≠ some term.seq →
    ∀ fl : Byte,
    (∀ i, i < 8 → fl.getLsbD i
      = (term.flags.getLsbD i && decide (i ≠ s.cfg.hdr.flagChunkStart) && decide (i ≠ s.cfg.hdr.flagChunk))) →
    (OnSlot n s →
      ∃ t, execAll (chunkedRows hs first rest) s = .next t ∧ (t.slot n).cstate = .idle
        ∧ (∀ j, j ≠ n → t.slot j = s.slot j) ∧ t.work.stage = .message ⟨term.cmd, fl, term.seq, msg⟩)
    ∧ ∀ (key : Key) (o r : Bool) (more : List Input), s.cfg.wf = true → findKey key s.slots = some n →
      (∀ p ∈ first :: rest, 3 + 2 * s.cfg.varintMaxBytes + p.length ≤ s.cfg.frameMax) →
      s.cfg.hdr.chunkStart (hs 0).flags = true →
      (∀ i, 0 < i → i ≤ rest.length + 1 →
        s.cfg.hdr.chunked (hs i).flags = true ∧ s.cfg.hdr.chunkStart (hs i).flags = false) →
      s.inputs = (chunkedRows hs first rest).map (fun i => wireInput key o r (encode s.cfg i)) ++ more →
      ∃ t v, runSteps (rest.length + 1) s = .next t
        ∧ t.inputs = wireInput key o r (encode s.cfg (.chkE term msg.length)) :: more
        ∧ (∀ j, j ≠ n → t.slot j = s.slot j)
        ∧ step t = andThen (andThen (andThen (.next v) runNext) runNext) (fun u => .next (endStep u))
        ∧ OnSlot n v ∧ (v.slot n).cstate = .idle ∧ (∀ j, j ≠ n → v.slot j = s.slot j)
        ∧ v.work.stage = .message ⟨term.cmd, fl, term.seq, msg⟩

/-! ## Level 2: dispatch -/

/-- Rule R184: the first Arrival that is long enough stores the two ids and sets the latch; a short one is Invalid and
stores nothing; after the latch an Arrival is ignored. -/
def Obligations.ArrivalStoresIdsOnce : Prop :=
  ∀ (n : Nat) (s : State) (m : Message), OnSlot n s →
    ((s.slot n).arrivalSeen = true → exec (.arrival m) s = .next (endedWith s.slots 0 [] .okIgnored 0 s))
    ∧ ((s.slot n).arrivalSeen = false → m.data.length < s.cfg.arr.minLen →
      exec (.arrival m) s = .next (endedWith s.slots 0x0001 [] .invArrivalShort (info32 m.data.length) s))
    ∧ ((s.slot n).arrivalSeen = false → s.cfg.arr.minLen ≤ m.data.length →
      exec (.arrival m) s = .next (endedWith
        (s.slots.set n { s.slot n with
          vid := le16 m.data s.cfg.arr.vidOff, pid := le16 m.data s.cfg.arr.pidOff, arrivalSeen := true })
        0 [] .okArrival (le16 m.data s.cfg.arr.pidOff ++ le16 m.data s.cfg.arr.vidOff) s))

/-- Rule R186: Acknowledgement, Authentication and SerialNumber are read and discarded: `OK_IGNORED`, no flag, no state
changed, whatever the payload. -/
def Obligations.SystemCommandsIgnored : Prop :=
  ∀ (s : State) (m : Message),
    exec (.ack m) s = .next (endedWith s.slots 0 [] .okIgnored 0 s)
    ∧ exec (.auth m) s = .next (endedWith s.slots 0 [] .okIgnored 0 s)
    ∧ exec (.serial m) s = .next (endedWith s.slots 0 [] .okIgnored 0 s)

/-- Rules R185, R192, R190, R222: a parsed descriptor of a session without a mapper, with a sink that opens: exactly one
recognized identifier constructs its entry's layout, any other number the Fallback with `EV_SEL_AMBIG`; the descriptor is
stored, the flags of a partial or truncated parse are raised; the record's `info` holds the kind by its number. -/
def Obligations.DescriptorSelectsMapper : Prop :=
  (kindCode .none = 0 ∧ kindCode .guitar = 1 ∧ kindCode .drums = 2 ∧ kindCode .sixFret = 3 ∧ kindCode .gamepad = 4
    ∧ kindCode .fallback = 5 ∧ kindCode .legacyDemux = 6)
  ∧ ∀ (n : Nat) (s : State) (m : Message) (g nm : List (List Byte)) (part cap : Bool), OnSlot n s →
    (s.slot n).descSeen = false → dscParse s.cfg m.data = .ok g nm part cap → (s.slot n).mapper.kind = .none →
    s.work.openOk = true →
    (∀ e, s.cfg.guidTable.filter (fun e => g.contains e.guid) = [e] → e.kind ≠ .none →
      exec (.descriptor m) s = .next (endedWith
        (s.slots.set n (Slot.mapped
          { s.slot n with guids := g, names := nm, descPartial := part, descSeen := true } e.kind e.axisMode e.pickupMode))
        ((if part then 0x0004 else 0) ||| (if cap then 0x0040 else 0)) (opens n e.kind) .okDescriptor
        (info32 (g.length + 256 * nm.length + 65536 + 2 ^ 24 * kindCode e.kind)) s))
    ∧ (∀ k, (s.cfg.guidTable.filter (fun e => g.contains e.guid)).length = k → k ≠ 1 →
      exec (.descriptor m) s = .next (endedWith
        (s.slots.set n (Slot.mapped
          { s.slot n with guids := g, names := nm, descPartial := part, descSeen := true } .fallback .full .continuous))
        ((if part then 0x0004 else 0) ||| (if cap then 0x0040 else 0) ||| 0x0008) (opens n .fallback) .okDescriptor
        (info32 (g.length + 256 * nm.length + 65536 * min k 255 + 2 ^ 24 * 5)) s))

/-- Rules R185, R211, R190: a Descriptor after the first parsed one is ignored; one whose header is impossible is Invalid
with its cause, and nothing is stored; with a sink that refuses the handle the descriptor is stored all the same and the
step ends in `UNS_NO_SINK`; a session that has a mapper keeps it and only counts the matches. -/
def Obligations.DescriptorWithoutSelection : Prop :=
  ∀ (n : Nat) (s : State) (m : Message), OnSlot n s →
    ((s.slot n).descSeen = true → exec (.descriptor m) s = .next (endedWith s.slots 0 [] .okIgnored 0 s))
    ∧ (∀ info, (s.slot n).descSeen = false → dscParse s.cfg m.data = .bad info →
      exec (.descriptor m) s = .next (endedWith s.slots 0x0001 [] .invDescHeader (info32 info) s))
    ∧ ∀ (g nm : List (List Byte)) (part cap : Bool), (s.slot n).descSeen = false → dscParse s.cfg m.data = .ok g nm part cap →
    ((s.slot n).mapper.kind = .none → s.work.openOk = false →
      exec (.descriptor m) s = .next (endedWith
        (s.slots.set n { s.slot n with guids := g, names := nm, descPartial := part, descSeen := true })
        ((if part then 0x0004 else 0) ||| (if cap then 0x0040 else 0)
          ||| (if (s.cfg.guidTable.filter (fun e => g.contains e.guid)).length = 1 then 0 else 0x0008) ||| 0x0002)
        [] .unsNoSink 0 s))
    ∧ ((s.slot n).mapper.kind ≠ .none →
      exec (.descriptor m) s = .next (endedWith
        (s.slots.set n { s.slot n with guids := g, names := nm, descPartial := part, descSeen := true })
        ((if part then 0x0004 else 0) ||| (if cap then 0x0040 else 0)) [] .okDescriptor
        (info32 (g.length + 256 * nm.length
          + 65536 * min (s.cfg.guidTable.filter (fun e => g.contains e.guid)).length 255
          + 2 ^ 24 * kindCode (s.slot n).mapper.kind)) s))

/-- Rule R211: the conditions under which a descriptor's header is Invalid, with the info each reports, are exactly these;
every other descriptor is parsed. -/
def Obligations.DescriptorHeaderChecks : Prop :=
  ∀ (c : Cfg) (d : List Byte),
    (d.length < c.dsc.hdrMin → dscParse c d = .bad (256 * d.length))
    ∧ (c.dsc.hdrMin ≤ d.length → d.length < (le16 d c.dsc.dlenOff).toNat →
        dscParse c d = .bad (1 + 256 * (le16 d c.dsc.dlenOff).toNat))
    ∧ (c.dsc.hdrMin ≤ d.length → (le16 d c.dsc.dlenOff).toNat ≤ d.length →
        ((le16 d c.dsc.hlenOff).toNat < c.dsc.hdrMin ∨ (le16 d c.dsc.dlenOff).toNat < (le16 d c.dsc.hlenOff).toNat) →
        dscParse c d = .bad (2 + 256 * (le16 d c.dsc.hlenOff).toNat))
    ∧ (c.dsc.hdrMin ≤ (le16 d c.dsc.hlenOff).toNat → (le16 d c.dsc.hlenOff).toNat ≤ (le16 d c.dsc.dlenOff).toNat →
        (le16 d c.dsc.dlenOff).toNat ≤ d.length → ∃ g nm part cap, dscParse c d = .ok g nm part cap)

/-- Rules R214, R211: DSC "never reads at or beyond `bound`": two descriptors that agree on the bytes below the declared
total length parse alike, whatever follows. -/
def Obligations.DescriptorNeverReadsPastItsLength : Prop :=
  ∀ (c : Cfg) (d tail tail' : List Byte), c.wf = true → c.dsc.hdrMin ≤ d.length →
    (le16 d c.dsc.dlenOff).toNat = d.length →
    dscParse c (d ++ tail) = dscParse c (d ++ tail')

/-- Rules R26, R217, R218, R221: a parsed descriptor's two lists hold no repetition and respect their capacities; every
identifier has its `GUID_BYTES` bytes; a truncation for capacity is also a partial result. -/
def Obligations.DescriptorSetsAreBounded : Prop :=
  ∀ (c : Cfg) (d : List Byte) (g nm : List (List Byte)) (part cap : Bool), dscParse c d = .ok g nm part cap →
    g.Nodup ∧ g.length ≤ c.dsc.maxGuids ∧ (∀ x ∈ g, x.length = c.dsc.guidBytes)
      ∧ nm.Nodup ∧ nm.length ≤ c.dsc.maxNames ∧ (∀ x ∈ nm, x.length ≤ c.dsc.maxNameLen)
      ∧ (cap = true → part = true)

/-- Rules R212, R213, R215, R217, R221: the identifiers that the parse of a descriptor answers. An absent list has none; one
whose table entry or count byte lies outside the bound has none and the result is partial. Else they are the identifiers
`gs` that follow the count byte, as many as it says or as many as the bound admits (then the result is partial), in their
order, each once, up to the capacity (beyond it the result is partial and truncated). With the other list absent these are
the only grounds of `part` and `cap`. -/
def Obligations.IdentifierListReadInOrder : Prop :=
  ∀ (c : Cfg) (d : List Byte) (t bound : Nat), DscHeader c d t bound →
    (ListOutside d t bound c.dsc.entGuids →
      (∃ nm cap, dscParse c d = .ok [] nm true cap)
      ∧ (ListAbsent d t bound c.dsc.entNames → dscParse c d = .ok [] [] true false))
    ∧ (ListAbsent d t bound c.dsc.entGuids →
      (∃ nm part cap, dscParse c d = .ok [] nm part cap)
      ∧ (ListAbsent d t bound c.dsc.entNames → dscParse c d = .ok [] [] false false))
    ∧ ∀ (p : Nat) (gs : List (List Byte)), (∀ g ∈ gs, g.length = c.dsc.guidBytes) →
      ListAt d t bound c.dsc.entGuids p gs.flatten →
      (gs.length = (byteAt d p).toNat
        ∨ (gs.length < (byteAt d p).toNat ∧ bound < p + 1 + gs.flatten.length + c.dsc.guidBytes)) →
      ∀ (cut trunc : Bool), cut = decide (gs.length < (byteAt d p).toNat) →
      trunc = decide (c.dsc.maxGuids < gs.eraseDups.length) →
      (∃ nm part cap, dscParse c d = .ok (gs.eraseDups.take c.dsc.maxGuids) nm part cap
        ∧ ((cut || trunc) = true → part = true) ∧ (trunc = true → cap = true))
      ∧ (ListAbsent d t bound c.dsc.entNames →
        dscParse c d = .ok (gs.eraseDups.take c.dsc.maxGuids) [] (cut || trunc) trunc)

/-- Rules R187, R195: a forwarded command of a session with a mapper waits for the mapper when the sink is ready, and is
dropped with `UNS_NOT_READY` when it is not; no slot changes. -/
def Obligations.ForwardedToExistingMapper : Prop :=
  ∀ (n : Nat) (s : State) (m : Message) (i : Instr), OnSlot n s →
    (i = .keystroke m ∨ i = .input m ∨ i = .ghlInput m ∨ i = .other m) → (s.slot n).mapper.kind ≠ .none →
    (s.work.ready = true → exec i s = .next (passedOn s.slots 0 [] (.report m) s))
    ∧ (s.work.ready = false → exec i s = .next (endedWith s.slots 0x0002 [] .unsNotReady 0 s))

/-- Rules R187, R190, R195, R196: a forwarded command of a session without a mapper constructs the Fallback, with the
warning the first time only; with a sink that refuses the handle it ends in `UNS_NO_SINK` and changes no slot; with a sink
that is not ready the mapper stands and the message is dropped. -/
def Obligations.ForwardedBuildsLazyFallback : Prop :=
  ∀ (n : Nat) (s : State) (m : Message) (i : Instr), OnSlot n s →
    (i = .keystroke m ∨ i = .input m ∨ i = .ghlInput m ∨ i = .other m) → (s.slot n).mapper.kind = .none →
    (s.work.openOk = false → exec i s = .next (endedWith s.slots 0x0002 [] .unsNoSink 0 s))
    ∧ (s.work.openOk = true → s.work.ready = true →
      exec i s = .next (passedOn
        (s.slots.set n { Slot.mapped (s.slot n) .fallback .full .continuous with fbWarned := true })
        (if (s.slot n).fbWarned then 0 else 0x0010) (opens n .fallback) (.report m) s))
    ∧ (s.work.openOk = true → s.work.ready = false →
      exec i s = .next (endedWith
        (s.slots.set n { Slot.mapped (s.slot n) .fallback .full .continuous with fbWarned := true })
        ((if (s.slot n).fbWarned then 0 else 0x0010) ||| 0x0002) (opens n .fallback) .unsNotReady 0 s))

/-! ## Level 3: the report extractors -/

/-- Rules R250, R252, R243, R244, R37: a Guitar report sets exactly the common and the Guitar group of `out` (the guide bit
carried over, every other field 0 / false), with the axis and pickup variants of the mapper, and is submitted once. -/
def Obligations.GuitarReportDecoded : Prop :=
  ∀ (n : Nat) (s : State) (m : Message), OnSlot n s → m.data.length = s.cfg.gtr.len →
    ∃ o : Out,
      o = { Out.zero with
        tag := .guitar
        guide := (s.slot n).out.guide
        buttonsRaw := le16 m.data s.cfg.gtr.btnOff
        menu := (le16 m.data s.cfg.gtr.btnOff).getLsbD s.cfg.btn.menu
        options := (le16 m.data s.cfg.gtr.btnOff).getLsbD s.cfg.btn.options
        dpadUp := (le16 m.data s.cfg.gtr.btnOff).getLsbD s.cfg.btn.dpadUp
        dpadDown := (le16 m.data s.cfg.gtr.btnOff).getLsbD s.cfg.btn.dpadDown
        dpadLeft := (le16 m.data s.cfg.gtr.btnOff).getLsbD s.cfg.btn.dpadLeft
        dpadRight := (le16 m.data s.cfg.gtr.btnOff).getLsbD s.cfg.btn.dpadRight
        green := (byteAt m.data s.cfg.gtr.upperOff).getLsbD s.cfg.gtr.green
          || (byteAt m.data s.cfg.gtr.lowerOff).getLsbD s.cfg.gtr.green
        red := (byteAt m.data s.cfg.gtr.upperOff).getLsbD s.cfg.gtr.red
          || (byteAt m.data s.cfg.gtr.lowerOff).getLsbD s.cfg.gtr.red
        yellow := (byteAt m.data s.cfg.gtr.upperOff).getLsbD s.cfg.gtr.yellow
          || (byteAt m.data s.cfg.gtr.lowerOff).getLsbD s.cfg.gtr.yellow
        blue := (byteAt m.data s.cfg.gtr.upperOff).getLsbD s.cfg.gtr.blue
          || (byteAt m.data s.cfg.gtr.lowerOff).getLsbD s.cfg.gtr.blue
        orange := (byteAt m.data s.cfg.gtr.upperOff).getLsbD s.cfg.gtr.orange
          || (byteAt m.data s.cfg.gtr.lowerOff).getLsbD s.cfg.gtr.orange
        lowerFlag := (le16 m.data s.cfg.gtr.btnOff).getLsbD s.cfg.gtr.lowerFlagBit
        tiltRaw := byteAt m.data s.cfg.gtr.tiltOff
        whammyRaw := byteAt m.data s.cfg.gtr.whammyOff
        pickupRaw := byteAt m.data s.cfg.gtr.pickupOff
        tilt := if (s.slot n).mapper.axisMode = .full then axisFull (byteAt m.data s.cfg.gtr.tiltOff)
          else axisHalf (byteAt m.data s.cfg.gtr.tiltOff)
        whammy := if (s.slot n).mapper.axisMode = .full then axisFull (byteAt m.data s.cfg.gtr.whammyOff)
          else axisHalf (byteAt m.data s.cfg.gtr.whammyOff)
        pickup := if (s.slot n).mapper.pickupMode = .plateau then pickupPlateau s.cfg (byteAt m.data s.cfg.gtr.pickupOff)
          else if (s.slot n).mapper.axisMode = .full then axisFull (byteAt m.data s.cfg.gtr.pickupOff)
          else axisHalf (byteAt m.data s.cfg.gtr.pickupOff) }
      ∧ exec (.inputGtr m) s = .next (endedWith (s.slots.set n { s.slot n with out := o }) 0 [.sinkSubmit n none o]
          .okReport 1 s)

/-- Rule R251: two Guitar reports that are equal but for the two fret bytes, whose OR is equal, give equal fret flags; in
particular a fret bit set in the upper byte alone, in the lower byte alone, or in both. -/
def Obligations.FretBytesAreMergedByOr : Prop :=
  ∀ (c : Cfg) (am : AxisMode) (pm : PickupMode) (d : List Byte) (u l u' l' : Byte),
    c.gtr.upperOff ≠ c.gtr.lowerOff → c.gtr.upperOff < d.length → c.gtr.lowerOff < d.length → u ||| l = u' ||| l' →
    let a := guitarOut c am pm ((d.set c.gtr.upperOff u).set c.gtr.lowerOff l)
    let b := guitarOut c am pm ((d.set c.gtr.upperOff u').set c.gtr.lowerOff l')
    a.green = b.green ∧ a.red = b.red ∧ a.yellow = b.yellow ∧ a.blue = b.blue ∧ a.orange = b.orange

/-- Rules R260, R262, R263, R243, R37: a Drums report: nibbles, the two derived colours, the eight velocity axes, the d-pad
emulation with its new `prev_mask` and `latched`; every other field of `out` 0 / false, one submit. -/
def Obligations.DrumsReportDecoded : Prop :=
  ∀ (n : Nat) (s : State) (m : Message), OnSlot n s → m.data.length = s.cfg.drm.len →
    ∀ (b pads cyms : Half) (pad cym : Four (BitVec 4)) (mask lat : BitVec 2),
    b = le16 m.data s.cfg.drm.btnOff → pads = le16 m.data s.cfg.drm.padsOff → cyms = le16 m.data s.cfg.drm.cymsOff →
    pad = ⟨(pads >>> s.cfg.drm.padShift.red).setWidth 4, (pads >>> s.cfg.drm.padShift.yellow).setWidth 4,
      (pads >>> s.cfg.drm.padShift.blue).setWidth 4, (pads >>> s.cfg.drm.padShift.green).setWidth 4⟩ →
    cym = ⟨(cyms >>> s.cfg.drm.cymShift.red).setWidth 4, (cyms >>> s.cfg.drm.cymShift.yellow).setWidth 4,
      (cyms >>> s.cfg.drm.cymShift.blue).setWidth 4, (cyms >>> s.cfg.drm.cymShift.green).setWidth 4⟩ →
    mask = BitVec.ofBool (decide (cym.blue ≠ 0)) ++ BitVec.ofBool (decide (cym.yellow ≠ 0)) →
    lat = dpadLatch mask (s.slot n).prevMask (s.slot n).latched →
    ∃ o : Out,
      o = { Out.zero with
        tag := .drums
        guide := (s.slot n).out.guide
        buttonsRaw := b
        menu := b.getLsbD s.cfg.btn.menu
        options := b.getLsbD s.cfg.btn.options
        dpadLeft := b.getLsbD s.cfg.btn.dpadLeft
        dpadRight := b.getLsbD s.cfg.btn.dpadRight
        dpadUp := lat.getLsbD 0 || b.getLsbD s.cfg.btn.dpadUp
        dpadDown := lat.getLsbD 1 || b.getLsbD s.cfg.btn.dpadDown
        pad := pad
        cym := cym
        yellow := decide (pad.yellow ≠ 0) || decide (cym.yellow ≠ 0)
        blue := decide (pad.blue ≠ 0) || decide (cym.blue ≠ 0)
        padAxis := ⟨vel s.cfg.drm.negMask 0 pad.red, vel s.cfg.drm.negMask 1 pad.yellow,
          vel s.cfg.drm.negMask 2 pad.blue, vel s.cfg.drm.negMask 3 pad.green⟩
        cymAxis := ⟨vel s.cfg.drm.negMask 4 cym.red, vel s.cfg.drm.negMask 5 cym.yellow,
          vel s.cfg.drm.negMask 6 cym.blue, vel s.cfg.drm.negMask 7 cym.green⟩ }
      ∧ exec (.inputDrm m) s = .next (endedWith
          (s.slots.set n { s.slot n with prevMask := mask, latched := lat, out := o }) 0 [.sinkSubmit n none o]
          .okReport 2 s)

/-- Rule R263: the latch: unchanged when the mask is; cleared when the mask becomes zero; a bit still present is kept
("sticky"); an empty latch takes yellow if yellow is present, else blue; the latch stays inside the mask, with at most one
bit; and the document's sequence gives neutral, up, up, down, neutral. -/
def Obligations.DpadLatchRule : Prop :=
  (∀ m prev lat : BitVec 2,
    (m = prev → dpadLatch m prev lat = lat)
    ∧ (m ≠ prev → m = 0 → dpadLatch m prev lat = 0)
    ∧ (m ≠ prev → m ≠ 0 → lat &&& m ≠ 0 → dpadLatch m prev lat = lat &&& m)
    ∧ (m ≠ prev → m ≠ 0 → lat &&& m = 0 → m.getLsbD 0 = true → dpadLatch m prev lat = 1)
    ∧ (m ≠ prev → m ≠ 0 → lat &&& m = 0 → m.getLsbD 0 = false → dpadLatch m prev lat = 2)
    ∧ (latchOk prev lat → latchOk m (dpadLatch m prev lat)))
  ∧ dpadLatch 0 0 0 = 0 ∧ dpadLatch 1 0 0 = 1 ∧ dpadLatch 3 1 1 = 1 ∧ dpadLatch 2 3 1 = 2 ∧ dpadLatch 0 2 2 = 0

/-- Rules R13, R252, R262, R6: `rep16`, `axis_full`, `axis_half`, `vel_pos` and `vel_neg` as exact integers; the velocity
axes strictly decreasing, 0 and 15 at opposite extremes, `vel_neg(n) = vel_pos(n) - 32768`; a lane's bit of `DRM_NEG_MASK`
chooses; under `REFCFG` the plateau function takes the `min(b >> 4, 4)`-th of its five values. -/
def Obligations.ScalingFormulas : Prop :=
  (∀ b : Byte, (rep16 b).toNat = 257 * b.toNat ∧ rep16 b = (b.setWidth 16 <<< 8) ||| b.setWidth 16
    ∧ (axisFull b).toInt = 257 * (b.toNat : Int) - 32768
    ∧ (axisHalf b).toInt = ((257 * b.toNat / 2 : Nat) : Int))
  ∧ (∀ b : Byte,
      [(-32768 : Int), -16384, 0, 16384, 32767][min (b.toNat / 16) 4]? = some (pickupPlateau refCfg b).toInt)
  ∧ (∀ n : BitVec 4, (nib8 n).toNat = 17 * n.toNat ∧ (rep16 (nib8 n)).toNat = n.toNat * 0x1111
    ∧ (velPos n).toInt = ((0xFFFF - n.toNat * 0x1111) / 2 : Nat)
    ∧ (velNeg n).toInt = (velPos n).toInt - 32768)
  ∧ (∀ a b : BitVec 4, a < b → (velPos b).toInt < (velPos a).toInt ∧ (velNeg b).toInt < (velNeg a).toInt)
  ∧ (velPos 0).toInt = 32767 ∧ (velPos 15).toInt = 0 ∧ (velNeg 0).toInt = -1 ∧ (velNeg 15).toInt = -32768
  ∧ ∀ (mask : BitVec 8) (lane : Nat) (n : BitVec 4), vel mask lane n = if mask.getLsbD lane then velNeg n else velPos n

/-- Rules R270, R243, R244, R37: a SixFret report: six frets, the strum as an axis and as d-pad, the whammy; every other
field of `out` 0 / false, one submit. With the whammy rest value at 0x80 the whammy is the 7-bit excess spread by
replication; for any other rest value nothing is stated of it (the spec leaves the formula OPEN). -/
def Obligations.SixFretReportDecoded : Prop :=
  ∀ (n : Nat) (s : State) (m : Message), OnSlot n s → m.data.length = s.cfg.ghl.len →
    ∀ (b : Half) (f st w : Byte), b = le16 m.data s.cfg.ghl.btnOff → f = byteAt m.data s.cfg.ghl.fretOff →
    st = byteAt m.data s.cfg.ghl.strumOff → w = byteAt m.data s.cfg.ghl.whammyOff →
    ∃ (o : Out) (wh : I16),
      o = { Out.zero with
        tag := .sixFret
        guide := (s.slot n).out.guide
        buttonsRaw := b
        menu := b.getLsbD s.cfg.ghl.btn.menu
        options := b.getLsbD s.cfg.ghl.btn.options
        dpadUp := b.getLsbD s.cfg.ghl.btn.dpadUp || decide (st.toNat < s.cfg.ghl.strumCenter.toNat)
        dpadDown := b.getLsbD s.cfg.ghl.btn.dpadDown || decide (s.cfg.ghl.strumCenter.toNat < st.toNat)
        dpadLeft := b.getLsbD s.cfg.ghl.btn.dpadLeft
        dpadRight := b.getLsbD s.cfg.ghl.btn.dpadRight
        fret6 := s.cfg.ghl.fretBit.map (fun i => f.getLsbD i)
        strum := axisFull st
        whammy := wh }
      ∧ (s.cfg.ghl.whammyRest = 0x80#8 →
          wh.toNat = 256 * (w.toNat - 0x80) + 2 * (w.toNat - 0x80) + (w.toNat - 0x80) / 64)
      ∧ exec (.ghlInputGhl m) s = .next (endedWith (s.slots.set n { s.slot n with out := o }) 0 [.sinkSubmit n none o]
          .okReport 3 s)

/-- Rules R275, R243, R244, R37: a Gamepad report, where the layout exists: the buttons, and six fields passed through. -/
def Obligations.GamepadReportDecoded : Prop :=
  ∀ (n : Nat) (s : State) (m : Message), OnSlot n s → s.cfg.hasGamepad = true → m.data.length = s.cfg.pad.len →
    ∀ b : Half, b = le16 m.data s.cfg.pad.btnOff →
    ∃ o : Out,
      o = { Out.zero with
        tag := .gamepad
        guide := (s.slot n).out.guide
        buttonsRaw := b
        menu := b.getLsbD s.cfg.btn.menu
        options := b.getLsbD s.cfg.btn.options
        dpadUp := b.getLsbD s.cfg.btn.dpadUp
        dpadDown := b.getLsbD s.cfg.btn.dpadDown
        dpadLeft := b.getLsbD s.cfg.btn.dpadLeft
        dpadRight := b.getLsbD s.cfg.btn.dpadRight
        lt := le16 m.data s.cfg.pad.ltOff
        rt := le16 m.data s.cfg.pad.rtOff
        lx := le16 m.data s.cfg.pad.lxOff
        ly := le16 m.data s.cfg.pad.lyOff
        rx := le16 m.data s.cfg.pad.rxOff
        ry := le16 m.data s.cfg.pad.ryOff }
      ∧ exec (.inputPad m) s = .next (endedWith (s.slots.set n { s.slot n with out := o }) 0 [.sinkSubmit n none o]
          .okReport 4 s)

/-- Rule R280: the Fallback runs the first of its layouts whose command and length the message has, a Guitar with the
Full and Continuous variants whatever the mapper's, a Drums kit with the slot's own emulation state; with none it ignores
the message. The command is `CMD_GHL_INPUT` for SixFret and `CMD_INPUT` for the others, the length the layout's `*_LEN`. Of
a list that names Gamepad where the layout does not exist nothing is stated (notes/assumptions/25.md). -/
def Obligations.FallbackSniffsByLength : Prop :=
  (∀ c : Cfg, c.reportCmd .guitar = c.cmd.input ∧ c.reportLen .guitar = some c.gtr.len
    ∧ c.reportCmd .drums = c.cmd.input ∧ c.reportLen .drums = some c.drm.len
    ∧ c.reportCmd .sixFret = c.cmd.ghlInput ∧ c.reportLen .sixFret = some c.ghl.len
    ∧ c.reportCmd .gamepad = c.cmd.input ∧ c.reportLen .gamepad = some c.pad.len)
  ∧ ∀ (n : Nat) (s : State) (m : Message), OnSlot n s →
    ∀ found, found = s.cfg.fbLayouts.find? (fun k => m.cmd == s.cfg.reportCmd k && s.cfg.reportLen k == some m.data.length) →
    (found = some .guitar →
      ∃ o, o = { guitarOut s.cfg .full .continuous m.data with guide := (s.slot n).out.guide }
        ∧ exec (.inputFb m) s = .next (endedWith (s.slots.set n { s.slot n with out := o }) 0 [.sinkSubmit n none o]
            .okReport 1 s))
    ∧ (found = some .drums → exec (.inputFb m) s = exec (.inputDrm m) s)
    ∧ (found = some .sixFret → exec (.inputFb m) s = exec (.ghlInputGhl m) s)
    ∧ (found = some .gamepad → s.cfg.hasGamepad = true → exec (.inputFb m) s = exec (.inputPad m) s)
    ∧ (found = none → exec (.inputFb m) s = .next (endedWith s.slots 0 [] .okIgnored 0 s))

/-- Rule R290: a guide key event of a kind that enables it changes `guide` alone and submits the record; with the kind not
enabled, another length or another key code it is ignored. -/
def Obligations.GuideKeyChangesGuideOnly : Prop :=
  ∀ (n : Nat) (s : State) (m : Message), OnSlot n s →
    ((s.slot n).mapper.kind ∈ s.cfg.guideEn → m.data.length = s.cfg.key.len →
      byteAt m.data s.cfg.key.codeOff = s.cfg.key.guide →
      ∃ o, o = { (s.slot n).out with guide := (byteAt m.data s.cfg.key.flagsOff).getLsbD s.cfg.key.pressedBit }
        ∧ exec (.keystrokeGuide m) s = .next (endedWith (s.slots.set n { s.slot n with out := o }) 0
            [.sinkSubmit n none o] .okKey (if o.guide then 1 else 0) s))
    ∧ (((s.slot n).mapper.kind ∉ s.cfg.guideEn ∨ m.data.length ≠ s.cfg.key.len
        ∨ byteAt m.data s.cfg.key.codeOff ≠ s.cfg.key.guide) →
      exec (.keystrokeGuide m) s = .next (endedWith s.slots 0 [] .okIgnored 0 s))

/-- Rule R241: every message no row takes ends in `OK_IGNORED` (the row NOOP): no slot changes, nothing is submitted, no flag
is set. That the rows INPUT.GTR, INPUT.DRM, GHLINPUT.GHL and INPUT.PAD end so too when they are run outside the condition
that selects them, on a report of another length or, for INPUT.PAD, where the Gamepad layout does not exist, is the model's
reading, notes/assumptions/16.md: the decoder gives such a message to NOOP. -/
def Obligations.UnrecognizedReportIgnored : Prop :=
  ∀ (s : State) (m : Message),
    exec (.noop m) s = .next (endedWith s.slots 0 [] .okIgnored 0 s)
    ∧ (m.data.length ≠ s.cfg.gtr.len → exec (.inputGtr m) s = .next (endedWith s.slots 0 [] .okIgnored 0 s))
    ∧ (m.data.length ≠ s.cfg.drm.len → exec (.inputDrm m) s = .next (endedWith s.slots 0 [] .okIgnored 0 s))
    ∧ (m.data.length ≠ s.cfg.ghl.len → exec (.ghlInputGhl m) s = .next (endedWith s.slots 0 [] .okIgnored 0 s))
    ∧ (m.data.length ≠ s.cfg.pad.len ∨ s.cfg.hasGamepad = false →
        exec (.inputPad m) s = .next (endedWith s.slots 0 [] .okIgnored 0 s))

/-! ## Level 3: the legacy demultiplexer -/

/-- Rules R302, R303, R304: a connect sub-message for user `u`: an unknown subtype raises `EV_LGY_UNKNOWN` and changes no
slot; a known one replaces the child, closing the old handle if there is one and opening the new one; with a sink that
refuses the handle the child stays None. -/
def Obligations.LegacyConnectReplacesChild : Prop :=
  ∀ (n : Nat) (s : State) (m : Message) (l : LgyCfg) (u : Nat) (c : Child) (t : Byte), OnSlot n s →
    s.cfg.lgy = some l → l.userOff < m.data.length → u = (byteAt m.data l.userOff).toNat → u < l.nUsers →
    (s.slot n).children[u]? = some c → l.connectMin ≤ m.data.length → t = byteAt m.data l.subtypeOff →
    (t ∉ l.subtypesGuitar → t ≠ l.subtypeDrums →
      exec (.lgyConnect m) s = .next (endedWith s.slots 0x0080 [] .okLgy (info32 u) s))
    ∧ (∀ k, (k = .guitar ∧ t ∈ l.subtypesGuitar) ∨ (k = .drums ∧ t ∉ l.subtypesGuitar ∧ t = l.subtypeDrums) →
      (s.work.openOk = true →
        exec (.lgyConnect m) s = .next (endedWith
          (s.slots.set n { s.slot n with
            children := (s.slot n).children.set u { kind := k, prevMask := 0, latched := 0, out := Out.zero } })
          0 ((if c.kind = .none then [] else [.sinkClose n (some u)]) ++ [.sinkOpen n (some u) k]) .okLgy
          (info32 (u + 256 * kindCode k)) s))
      ∧ (s.work.openOk = false →
        exec (.lgyConnect m) s = .next (endedWith
          (s.slots.set n { s.slot n with children := (s.slot n).children.set u { c with kind := .none } })
          0x0002 (if c.kind = .none then [] else [.sinkClose n (some u)]) .okLgy (info32 u) s)))

/-- Rule R304: a disconnect sub-message closes and removes the child of its user; of an absent child it changes nothing. -/
def Obligations.LegacyDisconnectRemovesChild : Prop :=
  ∀ (n : Nat) (s : State) (m : Message) (l : LgyCfg) (u : Nat) (c : Child), OnSlot n s →
    s.cfg.lgy = some l → l.userOff < m.data.length → u = (byteAt m.data l.userOff).toNat → u < l.nUsers →
    (s.slot n).children[u]? = some c →
    (c.kind ≠ .none →
      exec (.lgyDisconnect m) s = .next (endedWith
        (s.slots.set n { s.slot n with children := (s.slot n).children.set u { c with kind := .none } })
        0 [.sinkClose n (some u)] .okLgy (info32 u) s))
    ∧ (c.kind = .none → exec (.lgyDisconnect m) s = .next (endedWith s.slots 0 [] .okLgy (info32 u) s))

/-- Rule R305: an input sub-message runs the child's decoder on the inner bytes, with the child's own emulation state and
record; an absent child, a short message or an inner length that does not match is ignored. -/
def Obligations.LegacyInputReachesItsChild : Prop :=
  ∀ (n : Nat) (s : State) (m : Message) (l : LgyCfg) (u : Nat) (c : Child) (inner : List Byte), OnSlot n s →
    s.cfg.lgy = some l → l.userOff < m.data.length → u = (byteAt m.data l.userOff).toNat → u < l.nUsers →
    (s.slot n).children[u]? = some c → inner = m.data.drop l.innerOff →
    (c.kind = .guitar → l.innerOff ≤ m.data.length → inner.length = s.cfg.gtr.len →
      ∃ o, o = { guitarOut s.cfg .full .continuous inner with guide := c.out.guide }
        ∧ exec (.lgyInput m) s = .next (endedWith
            (s.slots.set n { s.slot n with children := (s.slot n).children.set u { c with out := o } })
            0 [.sinkSubmit n (some u) o] .okReport (info32 (1 + 256 * u)) s))
    ∧ (c.kind = .drums → l.innerOff ≤ m.data.length → inner.length = s.cfg.drm.len →
      ∃ mask lat o, mask = cymbalMask (drumCymbals s.cfg inner) ∧ lat = dpadLatch mask c.prevMask c.latched
        ∧ o = { drumsOut s.cfg lat inner with guide := c.out.guide }
        ∧ exec (.lgyInput m) s = .next (endedWith
            (s.slots.set n { s.slot n with
              children := (s.slot n).children.set u { c with prevMask := mask, latched := lat, out := o } })
            0 [.sinkSubmit n (some u) o] .okReport (info32 (2 + 256 * u)) s))
    ∧ ((c.kind = .none ∨ m.data.length < l.innerOff
        ∨ ¬ ((c.kind = .guitar ∧ inner.length = s.cfg.gtr.len) ∨ (c.kind = .drums ∧ inner.length = s.cfg.drm.len))) →
      exec (.lgyInput m) s = .next (endedWith s.slots 0 [] .okIgnored 0 s))

/-- Rules R302, R303: a sub-message too short to name a user is ignored; a user index out of range is ignored with
`EV_LGY_UNKNOWN`; a connect sub-message below its least length is ignored. That without the unit all three rows are ignored
is the model's reading, notes/assumptions/16.md: no rule of that file can fire there. -/
def Obligations.LegacySubMessageChecks : Prop :=
  ∀ (s : State) (m : Message) (i : Instr), (i = .lgyConnect m ∨ i = .lgyDisconnect m ∨ i = .lgyInput m) →
    (s.cfg.lgy = none → exec i s = .next (endedWith s.slots 0 [] .okIgnored 0 s))
    ∧ ∀ l, s.cfg.lgy = some l →
      (m.data.length ≤ l.userOff → exec i s = .next (endedWith s.slots 0 [] .okIgnored 0 s))
      ∧ (l.userOff < m.data.length → l.nUsers ≤ (byteAt m.data l.userOff).toNat →
          exec i s = .next (endedWith s.slots 0x0080 [] .okIgnored 0 s))
      ∧ (l.userOff < m.data.length → (byteAt m.data l.userOff).toNat < l.nUsers → m.data.length < l.connectMin →
          exec (.lgyConnect m) s = .next (endedWith s.slots 0 [] .okIgnored 0 s))

/-! ## The control port -/

/-- Rules R342, R197, R361, R372: RESET closes every live handle once, frees every slot, clears `EVFLAGS`, and leaves its own
record in `LAST_*`; what the other fields of a freed slot hold is not stated. Three clauses are the model's: the order of the
closes, slots and users in rising number (notes/assumptions/19.md), that `CB` keeps its bytes (rule R372,
notes/assumptions/5.md), and the counter `draws` of free values (notes/assumptions/4.md). -/
def Obligations.ResetOperation : Prop :=
  ∀ s : State, ∃ slots : List Slot, slots.length = s.slots.length
    ∧ (∀ x ∈ slots, x.valid = false) ∧ (slots.map (·.cb) = s.slots.map (·.cb))
    ∧ exec .reset s = .next { controlEnded slots none 0 0
        ((List.range s.slots.length).flatMap
          (fun i => if (s.slot i).valid = true then closes i (s.slot i) else []))
        .okControl 0 s with evflags := 0, draws := s.draws + 1 }

/-- Rules R343, R197: CLOSE of a key some session holds closes its handles and frees its slot; of any other key it changes
no slot. The record carries slot and key. The rising order of a LegacyDemux's closes (notes/assumptions/19.md), and that its
children are then None while the other fields of the mapper and the children keep their values (notes/assumptions/17.md),
are the model's reading. -/
def Obligations.CloseOperation : Prop :=
  ∀ (s : State) (k : Key),
    (findKey k s.slots = none → exec (.close k) s = .next (controlEnded s.slots none k 0 [] .okControl 0 s))
    ∧ (∀ i, findKey k s.slots = some i →
      exec (.close k) s = .next (controlEnded (s.slots.set i { (s.slot i).torn with valid := false }) (some i) k 0
        (closes i (s.slot i)) .okControl 1 s))

/-- Rules R344, R197: SINK_LOST of a key whose session has a mapper tears the mapper down, raises `EV_DISCONNECTED` and
ends in `DISCONNECTED`, the session staying; otherwise it ends `OK_CONTROL` and changes no slot. The model's readings: the
record of the second case names no slot (notes/assumptions/9.md); a LegacyDemux's children are closed in rising order
(notes/assumptions/19.md) and are then None, while the other fields of the mapper and the children keep their values
(notes/assumptions/17.md). -/
def Obligations.SinkLostOperation : Prop :=
  ∀ (s : State) (k : Key),
    ((∀ i, findKey k s.slots = some i → (s.slot i).mapper.kind = .none) →
      exec (.sinkLost k) s = .next (controlEnded s.slots none k 0 [] .okControl 0 s))
    ∧ (∀ i, findKey k s.slots = some i → (s.slot i).mapper.kind ≠ .none →
      exec (.sinkLost k) s = .next (controlEnded (s.slots.set i (s.slot i).torn) (some i) k 0x0100
        (closes i (s.slot i)) .disconnected 0 s))

/-- Rules R346, R42, R41: CSR_READ puts the register's value on the read-data output and into the record's `info`, and
changes nothing else, `LAST_*` included; an unassigned register reads 0; bit i of `SESS_VALID` is `valid` of slot i. Of the
`info` of a value of more than 32 bits, which only `SESS_VALID` can have, nothing is stated (notes/assumptions/6.md). -/
def Obligations.CsrReadOperation : Prop :=
  (∀ (s : State) (n v : Nat),
    v = (if n = 0 then s.evflags.toNat else if n = 1 then s.lastCode.toNat else if n = 2 then s.lastInfo.toNat
      else if n = 3 then s.lastSlot.toNat else if n = 4 then sessValid s.slots else 0) →
    exec (.csrRead n) s = .next { s with
      work := Work.idle
      readData := some v
      result := some { slot := none, key := 0, code := .okControl, hdrValid := false, cmd := 0, seq := 0, flags := 0,
                       info := info32 v, warn := 0 } })
  ∧ ∀ (slots : List Slot) (i : Nat), (sessValid slots).testBit i = (slots[i]?.map (·.valid)).getD false

/-- Rule R345: CSR_W1C of register 0 clears the bits 8:0 that the mask names, and no other; of any other register it
writes nothing; its `info` is `EVFLAGS` after the write. -/
def Obligations.CsrWriteOneToClear : Prop :=
  ∀ (s : State) (n : Nat) (mask e : BitVec 16),
    (∀ i, i < 16 → e.getLsbD i
      = (s.evflags.getLsbD i && !(decide (n = 0) && decide (i < 9) && mask.getLsbD i))) →
    exec (.csrW1c n mask) s
      = .next { controlEnded s.slots none 0 0 [] .okControl (e.setWidth 32) s with evflags := e }

/-! ## Level 2: the class names of a descriptor -/

/-- Rules R212, R213, R215, R218, R221: the class names that the parse of a descriptor answers. An absent list has none; one
whose table entry or count byte lies outside the bound has none and the result is partial. Else they are the
length-prefixed names `ns` that follow the count byte, as many as it says or as many as the bound admits (a name whose
prefix or whose bytes lie outside it ends the list and the result is partial), each cut to `DSC_MAX_NAME_LEN` bytes (a cut
one makes the result partial and truncated), an empty name included, in their order, each once, up to the capacity. With the
other list absent these are the only grounds of `part` and `cap`. A well-formed configuration has a two-byte length prefix,
which is the model's choice (notes/assumptions/27.md). -/
def Obligations.ClassNameListReadInOrder : Prop :=
  ∀ (c : Cfg) (d : List Byte) (t bound : Nat), c.wf = true → DscHeader c d t bound →
    (ListOutside d t bound c.dsc.entNames →
      (∃ g cap, dscParse c d = .ok g [] true cap)
      ∧ (ListAbsent d t bound c.dsc.entGuids → dscParse c d = .ok [] [] true false))
    ∧ (ListAbsent d t bound c.dsc.entNames →
      (∃ g part cap, dscParse c d = .ok g [] part cap)
      ∧ (ListAbsent d t bound c.dsc.entGuids → dscParse c d = .ok [] [] false false))
    ∧ ∀ (p q : Nat) (ns kept : List (List Byte)), (∀ name ∈ ns, name.length < 65536) →
      ListAt d t bound c.dsc.entNames p (ns.map nameBytes).flatten → q = p + 1 + (ns.map nameBytes).flatten.length →
      (ns.length = (byteAt d p).toNat
        ∨ (ns.length < (byteAt d p).toNat ∧ (bound < q + 2 ∨ bound < q + 2 + (le16 d q).toNat))) →
      kept = (ns.map (fun name => name.take c.dsc.maxNameLen)).eraseDups →
      ∀ (cut trunc : Bool), cut = decide (ns.length < (byteAt d p).toNat) →
      trunc = (ns.any (fun name => decide (c.dsc.maxNameLen < name.length)) || decide (c.dsc.maxNames < kept.length)) →
      (∃ g part cap, dscParse c d = .ok g (kept.take c.dsc.maxNames) part cap
        ∧ ((cut || trunc) = true → part = true) ∧ (trunc = true → cap = true))
      ∧ (ListAbsent d t bound c.dsc.entGuids →
        dscParse c d = .ok [] (kept.take c.dsc.maxNames) (cut || trunc) trunc)
end

