-- ==== Sys2Proof/Laws/State.lean ====
section
/-! SUPPORT. The small lemmas of the state: one per field per update, and what the slot accessors answer after a write.
Later proofs cite these and unfold no record update. -/

namespace Sys2Proof.Machine

/-! ### `resetFor` -/

@[simp] theorem resetFor_cfg (c : Cfg) : (State.resetFor c).cfg = c := rfl
@[simp] theorem resetFor_slots (c : Cfg) : (State.resetFor c).slots = List.replicate c.nSess (Slot.resetFor c) := rfl
@[simp] theorem resetFor_evflags (c : Cfg) : (State.resetFor c).evflags = 0 := rfl
@[simp] theorem resetFor_lastCode (c : Cfg) : (State.resetFor c).lastCode = 0 := rfl
@[simp] theorem resetFor_lastInfo (c : Cfg) : (State.resetFor c).lastInfo = 0 := rfl
@[simp] theorem resetFor_lastSlot (c : Cfg) : (State.resetFor c).lastSlot = 0 := rfl
@[simp] theorem resetFor_work (c : Cfg) : (State.resetFor c).work = Work.idle := rfl
@[simp] theorem resetFor_inputs (c : Cfg) : (State.resetFor c).inputs = [] := rfl
@[simp] theorem resetFor_result (c : Cfg) : (State.resetFor c).result = none := rfl
@[simp] theorem resetFor_events (c : Cfg) : (State.resetFor c).events = [] := rfl
@[simp] theorem resetFor_readData (c : Cfg) : (State.resetFor c).readData = none := rfl
@[simp] theorem resetFor_draws (c : Cfg) : (State.resetFor c).draws = 0 := rfl
@[simp] theorem slot_resetFor_valid (c : Cfg) : (Slot.resetFor c).valid = false := rfl
@[simp] theorem slot_resetFor_children (c : Cfg) :
    (Slot.resetFor c).children = List.replicate c.lgyUsers Child.reset := rfl

/-! ### `setSlot` -/

@[simp] theorem setSlot_cfg (i : Nat) (x : Slot) (s : State) : (s.setSlot i x).cfg = s.cfg := rfl
@[simp] theorem setSlot_slots (i : Nat) (x : Slot) (s : State) : (s.setSlot i x).slots = s.slots.set i x := rfl
@[simp] theorem setSlot_evflags (i : Nat) (x : Slot) (s : State) : (s.setSlot i x).evflags = s.evflags := rfl
@[simp] theorem setSlot_lastCode (i : Nat) (x : Slot) (s : State) : (s.setSlot i x).lastCode = s.lastCode := rfl
@[simp] theorem setSlot_lastInfo (i : Nat) (x : Slot) (s : State) : (s.setSlot i x).lastInfo = s.lastInfo := rfl
@[simp] theorem setSlot_lastSlot (i : Nat) (x : Slot) (s : State) : (s.setSlot i x).lastSlot = s.lastSlot := rfl
@[simp] theorem setSlot_work (i : Nat) (x : Slot) (s : State) : (s.setSlot i x).work = s.work := rfl
@[simp] theorem setSlot_inputs (i : Nat) (x : Slot) (s : State) : (s.setSlot i x).inputs = s.inputs := rfl
@[simp] theorem setSlot_result (i : Nat) (x : Slot) (s : State) : (s.setSlot i x).result = s.result := rfl
@[simp] theorem setSlot_events (i : Nat) (x : Slot) (s : State) : (s.setSlot i x).events = s.events := rfl
@[simp] theorem setSlot_readData (i : Nat) (x : Slot) (s : State) : (s.setSlot i x).readData = s.readData := rfl
@[simp] theorem setSlot_draws (i : Nat) (x : Slot) (s : State) : (s.setSlot i x).draws = s.draws := rfl

/-! ### `setStage` -/

@[simp] theorem setStage_cfg (g : Stage) (s : State) : (setStage g s).cfg = s.cfg := rfl
@[simp] theorem setStage_slots (g : Stage) (s : State) : (setStage g s).slots = s.slots := rfl
@[simp] theorem setStage_evflags (g : Stage) (s : State) : (setStage g s).evflags = s.evflags := rfl
@[simp] theorem setStage_lastCode (g : Stage) (s : State) : (setStage g s).lastCode = s.lastCode := rfl
@[simp] theorem setStage_lastInfo (g : Stage) (s : State) : (setStage g s).lastInfo = s.lastInfo := rfl
@[simp] theorem setStage_lastSlot (g : Stage) (s : State) : (setStage g s).lastSlot = s.lastSlot := rfl
@[simp] theorem setStage_work (g : Stage) (s : State) : (setStage g s).work = { s.work with stage := g } := rfl
@[simp] theorem setStage_inputs (g : Stage) (s : State) : (setStage g s).inputs = s.inputs := rfl
@[simp] theorem setStage_result (g : Stage) (s : State) : (setStage g s).result = s.result := rfl
@[simp] theorem setStage_events (g : Stage) (s : State) : (setStage g s).events = s.events := rfl
@[simp] theorem setStage_readData (g : Stage) (s : State) : (setStage g s).readData = s.readData := rfl
@[simp] theorem setStage_draws (g : Stage) (s : State) : (setStage g s).draws = s.draws := rfl

/-! ### `emit` -/

@[simp] theorem emit_cfg (e : Event) (s : State) : (emit e s).cfg = s.cfg := rfl
@[simp] theorem emit_slots (e : Event) (s : State) : (emit e s).slots = s.slots := rfl
@[simp] theorem emit_evflags (e : Event) (s : State) : (emit e s).evflags = s.evflags := rfl
@[simp] theorem emit_lastCode (e : Event) (s : State) : (emit e s).lastCode = s.lastCode := rfl
@[simp] theorem emit_lastInfo (e : Event) (s : State) : (emit e s).lastInfo = s.lastInfo := rfl
@[simp] theorem emit_lastSlot (e : Event) (s : State) : (emit e s).lastSlot = s.lastSlot := rfl
@[simp] theorem emit_work (e : Event) (s : State) : (emit e s).work = s.work := rfl
@[simp] theorem emit_inputs (e : Event) (s : State) : (emit e s).inputs = s.inputs := rfl
@[simp] theorem emit_result (e : Event) (s : State) : (emit e s).result = s.result := rfl
@[simp] theorem emit_events (e : Event) (s : State) : (emit e s).events = s.events ++ [e] := rfl
@[simp] theorem emit_readData (e : Event) (s : State) : (emit e s).readData = s.readData := rfl
@[simp] theorem emit_draws (e : Event) (s : State) : (emit e s).draws = s.draws := rfl

/-! ### `raiseEv` -/

@[simp] theorem raiseEv_cfg (e : Ev) (s : State) : (raiseEv e s).cfg = s.cfg := rfl
@[simp] theorem raiseEv_slots (e : Ev) (s : State) : (raiseEv e s).slots = s.slots := rfl
@[simp] theorem raiseEv_evflags (e : Ev) (s : State) : (raiseEv e s).evflags = s.evflags ||| e.mask := rfl
@[simp] theorem raiseEv_lastCode (e : Ev) (s : State) : (raiseEv e s).lastCode = s.lastCode := rfl
@[simp] theorem raiseEv_lastInfo (e : Ev) (s : State) : (raiseEv e s).lastInfo = s.lastInfo := rfl
@[simp] theorem raiseEv_lastSlot (e : Ev) (s : State) : (raiseEv e s).lastSlot = s.lastSlot := rfl
@[simp] theorem raiseEv_work (e : Ev) (s : State) : (raiseEv e s).work = { s.work with warn := s.work.warn ||| e.mask } := rfl
@[simp] theorem raiseEv_inputs (e : Ev) (s : State) : (raiseEv e s).inputs = s.inputs := rfl
@[simp] theorem raiseEv_result (e : Ev) (s : State) : (raiseEv e s).result = s.result := rfl
@[simp] theorem raiseEv_events (e : Ev) (s : State) : (raiseEv e s).events = s.events := rfl
@[simp] theorem raiseEv_readData (e : Ev) (s : State) : (raiseEv e s).readData = s.readData := rfl
@[simp] theorem raiseEv_draws (e : Ev) (s : State) : (raiseEv e s).draws = s.draws := rfl

/-! ### `select` -/

@[simp] theorem select_cfg (i : Nat) (s : State) : (select i s).cfg = s.cfg := rfl
@[simp] theorem select_slots (i : Nat) (s : State) : (select i s).slots = s.slots := rfl
@[simp] theorem select_evflags (i : Nat) (s : State) : (select i s).evflags = s.evflags := rfl
@[simp] theorem select_lastCode (i : Nat) (s : State) : (select i s).lastCode = s.lastCode := rfl
@[simp] theorem select_lastInfo (i : Nat) (s : State) : (select i s).lastInfo = s.lastInfo := rfl
@[simp] theorem select_lastSlot (i : Nat) (s : State) : (select i s).lastSlot = s.lastSlot := rfl
@[simp] theorem select_work (i : Nat) (s : State) : (select i s).work = { s.work with sel := some i } := rfl
@[simp] theorem select_inputs (i : Nat) (s : State) : (select i s).inputs = s.inputs := rfl
@[simp] theorem select_result (i : Nat) (s : State) : (select i s).result = s.result := rfl
@[simp] theorem select_events (i : Nat) (s : State) : (select i s).events = s.events := rfl
@[simp] theorem select_readData (i : Nat) (s : State) : (select i s).readData = s.readData := rfl
@[simp] theorem select_draws (i : Nat) (s : State) : (select i s).draws = s.draws := rfl

/-! ### `setHdr` -/

@[simp] theorem setHdr_cfg (h : Option Hdr) (s : State) : (setHdr h s).cfg = s.cfg := rfl
@[simp] theorem setHdr_slots (h : Option Hdr) (s : State) : (setHdr h s).slots = s.slots := rfl
@[simp] theorem setHdr_evflags (h : Option Hdr) (s : State) : (setHdr h s).evflags = s.evflags := rfl
@[simp] theorem setHdr_lastCode (h : Option Hdr) (s : State) : (setHdr h s).lastCode = s.lastCode := rfl
@[simp] theorem setHdr_lastInfo (h : Option Hdr) (s : State) : (setHdr h s).lastInfo = s.lastInfo := rfl
@[simp] theorem setHdr_lastSlot (h : Option Hdr) (s : State) : (setHdr h s).lastSlot = s.lastSlot := rfl
@[simp] theorem setHdr_work (h : Option Hdr) (s : State) : (setHdr h s).work = { s.work with hdr := h } := rfl
@[simp] theorem setHdr_inputs (h : Option Hdr) (s : State) : (setHdr h s).inputs = s.inputs := rfl
@[simp] theorem setHdr_result (h : Option Hdr) (s : State) : (setHdr h s).result = s.result := rfl
@[simp] theorem setHdr_events (h : Option Hdr) (s : State) : (setHdr h s).events = s.events := rfl
@[simp] theorem setHdr_readData (h : Option Hdr) (s : State) : (setHdr h s).readData = s.readData := rfl
@[simp] theorem setHdr_draws (h : Option Hdr) (s : State) : (setHdr h s).draws = s.draws := rfl

/-! ### `beginFrame` -/

@[simp] theorem beginFrame_cfg (k : Key) (o r : Bool) (s : State) : (beginFrame k o r s).cfg = s.cfg := rfl
@[simp] theorem beginFrame_slots (k : Key) (o r : Bool) (s : State) : (beginFrame k o r s).slots = s.slots := rfl
@[simp] theorem beginFrame_evflags (k : Key) (o r : Bool) (s : State) : (beginFrame k o r s).evflags = s.evflags := rfl
@[simp] theorem beginFrame_lastCode (k : Key) (o r : Bool) (s : State) : (beginFrame k o r s).lastCode = s.lastCode := rfl
@[simp] theorem beginFrame_lastInfo (k : Key) (o r : Bool) (s : State) : (beginFrame k o r s).lastInfo = s.lastInfo := rfl
@[simp] theorem beginFrame_lastSlot (k : Key) (o r : Bool) (s : State) : (beginFrame k o r s).lastSlot = s.lastSlot := rfl
@[simp] theorem beginFrame_work (k : Key) (o r : Bool) (s : State) : (beginFrame k o r s).work = { Work.idle with key := k, openOk := o, ready := r } := rfl
@[simp] theorem beginFrame_inputs (k : Key) (o r : Bool) (s : State) : (beginFrame k o r s).inputs = s.inputs := rfl
@[simp] theorem beginFrame_result (k : Key) (o r : Bool) (s : State) : (beginFrame k o r s).result = s.result := rfl
@[simp] theorem beginFrame_events (k : Key) (o r : Bool) (s : State) : (beginFrame k o r s).events = s.events := rfl
@[simp] theorem beginFrame_readData (k : Key) (o r : Bool) (s : State) : (beginFrame k o r s).readData = s.readData := rfl
@[simp] theorem beginFrame_draws (k : Key) (o r : Bool) (s : State) : (beginFrame k o r s).draws = s.draws := rfl

/-! ### `beginControl` -/

@[simp] theorem beginControl_cfg (k : Key) (s : State) : (beginControl k s).cfg = s.cfg := rfl
@[simp] theorem beginControl_slots (k : Key) (s : State) : (beginControl k s).slots = s.slots := rfl
@[simp] theorem beginControl_evflags (k : Key) (s : State) : (beginControl k s).evflags = s.evflags := rfl
@[simp] theorem beginControl_lastCode (k : Key) (s : State) : (beginControl k s).lastCode = s.lastCode := rfl
@[simp] theorem beginControl_lastInfo (k : Key) (s : State) : (beginControl k s).lastInfo = s.lastInfo := rfl
@[simp] theorem beginControl_lastSlot (k : Key) (s : State) : (beginControl k s).lastSlot = s.lastSlot := rfl
@[simp] theorem beginControl_work (k : Key) (s : State) : (beginControl k s).work = { Work.idle with key := k } := rfl
@[simp] theorem beginControl_inputs (k : Key) (s : State) : (beginControl k s).inputs = s.inputs := rfl
@[simp] theorem beginControl_result (k : Key) (s : State) : (beginControl k s).result = s.result := rfl
@[simp] theorem beginControl_events (k : Key) (s : State) : (beginControl k s).events = s.events := rfl
@[simp] theorem beginControl_readData (k : Key) (s : State) : (beginControl k s).readData = s.readData := rfl
@[simp] theorem beginControl_draws (k : Key) (s : State) : (beginControl k s).draws = s.draws := rfl

/-! ### `clearPorts` -/

@[simp] theorem clearPorts_cfg (s : State) : (clearPorts s).cfg = s.cfg := rfl
@[simp] theorem clearPorts_slots (s : State) : (clearPorts s).slots = s.slots := rfl
@[simp] theorem clearPorts_evflags (s : State) : (clearPorts s).evflags = s.evflags := rfl
@[simp] theorem clearPorts_lastCode (s : State) : (clearPorts s).lastCode = s.lastCode := rfl
@[simp] theorem clearPorts_lastInfo (s : State) : (clearPorts s).lastInfo = s.lastInfo := rfl
@[simp] theorem clearPorts_lastSlot (s : State) : (clearPorts s).lastSlot = s.lastSlot := rfl
@[simp] theorem clearPorts_work (s : State) : (clearPorts s).work = s.work := rfl
@[simp] theorem clearPorts_inputs (s : State) : (clearPorts s).inputs = s.inputs := rfl
@[simp] theorem clearPorts_result (s : State) : (clearPorts s).result = none := rfl
@[simp] theorem clearPorts_events (s : State) : (clearPorts s).events = [] := rfl
@[simp] theorem clearPorts_readData (s : State) : (clearPorts s).readData = none := rfl
@[simp] theorem clearPorts_draws (s : State) : (clearPorts s).draws = s.draws := rfl

/-! ### `endStep` -/

@[simp] theorem endStep_cfg (s : State) : (endStep s).cfg = s.cfg := rfl
@[simp] theorem endStep_slots (s : State) : (endStep s).slots = s.slots := rfl
@[simp] theorem endStep_evflags (s : State) : (endStep s).evflags = s.evflags := rfl
@[simp] theorem endStep_lastCode (s : State) : (endStep s).lastCode = s.lastCode := rfl
@[simp] theorem endStep_lastInfo (s : State) : (endStep s).lastInfo = s.lastInfo := rfl
@[simp] theorem endStep_lastSlot (s : State) : (endStep s).lastSlot = s.lastSlot := rfl
@[simp] theorem endStep_work (s : State) : (endStep s).work = Work.idle := rfl
@[simp] theorem endStep_inputs (s : State) : (endStep s).inputs = s.inputs := rfl
@[simp] theorem endStep_result (s : State) : (endStep s).result = s.result := rfl
@[simp] theorem endStep_events (s : State) : (endStep s).events = s.events := rfl
@[simp] theorem endStep_readData (s : State) : (endStep s).readData = s.readData := rfl
@[simp] theorem endStep_draws (s : State) : (endStep s).draws = s.draws := rfl

/-! ### `updateLast` -/

@[simp] theorem updateLast_cfg (c : Code) (v : Nat) (s : State) : (updateLast c v s).cfg = s.cfg := rfl
@[simp] theorem updateLast_slots (c : Code) (v : Nat) (s : State) : (updateLast c v s).slots = s.slots := rfl
@[simp] theorem updateLast_evflags (c : Code) (v : Nat) (s : State) : (updateLast c v s).evflags = s.evflags := rfl
@[simp] theorem updateLast_lastCode (c : Code) (v : Nat) (s : State) : (updateLast c v s).lastCode = c.byte := rfl
@[simp] theorem updateLast_lastInfo (c : Code) (v : Nat) (s : State) : (updateLast c v s).lastInfo = info32 v := rfl
@[simp] theorem updateLast_lastSlot (c : Code) (v : Nat) (s : State) : (updateLast c v s).lastSlot = slotByte s.work.sel := rfl
@[simp] theorem updateLast_work (c : Code) (v : Nat) (s : State) : (updateLast c v s).work = s.work := rfl
@[simp] theorem updateLast_inputs (c : Code) (v : Nat) (s : State) : (updateLast c v s).inputs = s.inputs := rfl
@[simp] theorem updateLast_result (c : Code) (v : Nat) (s : State) : (updateLast c v s).result = s.result := rfl
@[simp] theorem updateLast_events (c : Code) (v : Nat) (s : State) : (updateLast c v s).events = s.events := rfl
@[simp] theorem updateLast_readData (c : Code) (v : Nat) (s : State) : (updateLast c v s).readData = s.readData := rfl
@[simp] theorem updateLast_draws (c : Code) (v : Nat) (s : State) : (updateLast c v s).draws = s.draws := rfl

/-! ### `emitRecord` -/

@[simp] theorem emitRecord_cfg (c : Code) (v : Nat) (s : State) : (emitRecord c v s).cfg = s.cfg := rfl
@[simp] theorem emitRecord_slots (c : Code) (v : Nat) (s : State) : (emitRecord c v s).slots = s.slots := rfl
@[simp] theorem emitRecord_evflags (c : Code) (v : Nat) (s : State) : (emitRecord c v s).evflags = s.evflags := rfl
@[simp] theorem emitRecord_lastCode (c : Code) (v : Nat) (s : State) : (emitRecord c v s).lastCode = s.lastCode := rfl
@[simp] theorem emitRecord_lastInfo (c : Code) (v : Nat) (s : State) : (emitRecord c v s).lastInfo = s.lastInfo := rfl
@[simp] theorem emitRecord_lastSlot (c : Code) (v : Nat) (s : State) : (emitRecord c v s).lastSlot = s.lastSlot := rfl
@[simp] theorem emitRecord_work (c : Code) (v : Nat) (s : State) : (emitRecord c v s).work = { s.work with stage := .done } := rfl
@[simp] theorem emitRecord_inputs (c : Code) (v : Nat) (s : State) : (emitRecord c v s).inputs = s.inputs := rfl
@[simp] theorem emitRecord_result (c : Code) (v : Nat) (s : State) : (emitRecord c v s).result = some (record c v s) := rfl
@[simp] theorem emitRecord_events (c : Code) (v : Nat) (s : State) : (emitRecord c v s).events = s.events := rfl
@[simp] theorem emitRecord_readData (c : Code) (v : Nat) (s : State) : (emitRecord c v s).readData = s.readData := rfl
@[simp] theorem emitRecord_draws (c : Code) (v : Nat) (s : State) : (emitRecord c v s).draws = s.draws := rfl

/-! ### `finish` -/

@[simp] theorem finish_cfg (c : Code) (v : Nat) (s : State) : (finish c v s).cfg = s.cfg := rfl
@[simp] theorem finish_slots (c : Code) (v : Nat) (s : State) : (finish c v s).slots = s.slots := rfl
@[simp] theorem finish_evflags (c : Code) (v : Nat) (s : State) : (finish c v s).evflags = s.evflags := rfl
@[simp] theorem finish_lastCode (c : Code) (v : Nat) (s : State) : (finish c v s).lastCode = c.byte := rfl
@[simp] theorem finish_lastInfo (c : Code) (v : Nat) (s : State) : (finish c v s).lastInfo = info32 v := rfl
@[simp] theorem finish_lastSlot (c : Code) (v : Nat) (s : State) : (finish c v s).lastSlot = slotByte s.work.sel := rfl
@[simp] theorem finish_work (c : Code) (v : Nat) (s : State) : (finish c v s).work = { s.work with stage := .done } := rfl
@[simp] theorem finish_inputs (c : Code) (v : Nat) (s : State) : (finish c v s).inputs = s.inputs := rfl
@[simp] theorem finish_result (c : Code) (v : Nat) (s : State) : (finish c v s).result = some (record c v s) := rfl
@[simp] theorem finish_events (c : Code) (v : Nat) (s : State) : (finish c v s).events = s.events := rfl
@[simp] theorem finish_readData (c : Code) (v : Nat) (s : State) : (finish c v s).readData = s.readData := rfl
@[simp] theorem finish_draws (c : Code) (v : Nat) (s : State) : (finish c v s).draws = s.draws := rfl
/-! ### The slot accessors -/

/-- The step has selected slot `n`, which exists (rule R131: every step that passes ROUTE). -/
abbrev Selected (n : Nat) (s : State) : Prop := s.work.sel = some n ∧ n < s.slots.length

theorem cur_of_sel {n : Nat} {s : State} (h : s.work.sel = some n) : s.cur = s.slot n := by simp [State.cur, h]

theorem setCur_of_sel {n : Nat} {s : State} (h : s.work.sel = some n) (x : Slot) : s.setCur x = s.setSlot n x := by
  simp [State.setCur, h]

theorem selNo_of_sel {n : Nat} {s : State} (h : s.work.sel = some n) : s.selNo = n := by simp [State.selNo, h]

@[simp] theorem setCur_cfg (x : Slot) (s : State) : (s.setCur x).cfg = s.cfg := by
  unfold State.setCur; split <;> rfl
@[simp] theorem setCur_evflags (x : Slot) (s : State) : (s.setCur x).evflags = s.evflags := by
  unfold State.setCur; split <;> rfl
@[simp] theorem setCur_lastCode (x : Slot) (s : State) : (s.setCur x).lastCode = s.lastCode := by
  unfold State.setCur; split <;> rfl
@[simp] theorem setCur_lastInfo (x : Slot) (s : State) : (s.setCur x).lastInfo = s.lastInfo := by
  unfold State.setCur; split <;> rfl
@[simp] theorem setCur_lastSlot (x : Slot) (s : State) : (s.setCur x).lastSlot = s.lastSlot := by
  unfold State.setCur; split <;> rfl
@[simp] theorem setCur_work (x : Slot) (s : State) : (s.setCur x).work = s.work := by
  unfold State.setCur; split <;> rfl
@[simp] theorem setCur_inputs (x : Slot) (s : State) : (s.setCur x).inputs = s.inputs := by
  unfold State.setCur; split <;> rfl
@[simp] theorem setCur_result (x : Slot) (s : State) : (s.setCur x).result = s.result := by
  unfold State.setCur; split <;> rfl
@[simp] theorem setCur_events (x : Slot) (s : State) : (s.setCur x).events = s.events := by
  unfold State.setCur; split <;> rfl
@[simp] theorem setCur_readData (x : Slot) (s : State) : (s.setCur x).readData = s.readData := by
  unfold State.setCur; split <;> rfl
@[simp] theorem setCur_draws (x : Slot) (s : State) : (s.setCur x).draws = s.draws := by
  unfold State.setCur; split <;> rfl
@[simp] theorem setCur_slots_length (x : Slot) (s : State) : (s.setCur x).slots.length = s.slots.length := by
  unfold State.setCur; split <;> simp

/-- Writing a slot that exists and reading it back. -/
theorem slot_setSlot_same {s : State} {n : Nat} (h : n < s.slots.length) (x : Slot) : (s.setSlot n x).slot n = x := by
  simp [State.slot, h]

/-- Writing one slot leaves every other slot alone. -/
theorem slot_setSlot_other {s : State} {n j : Nat} (h : n ≠ j) (x : Slot) : (s.setSlot n x).slot j = s.slot j := by
  simp [State.slot, List.getD_eq_getElem?_getD, List.getElem?_set_ne h]

@[simp] theorem setSlot_setSlot (s : State) (n : Nat) (x y : Slot) : (s.setSlot n x).setSlot n y = s.setSlot n y := by
  simp [State.setSlot]

/-- `S` after it is written. -/
theorem cur_setCur {n : Nat} {s : State} (h : Selected n s) (x : Slot) : (s.setCur x).cur = x := by
  rw [setCur_of_sel h.1, cur_of_sel (n := n) (by simpa using h.1), slot_setSlot_same h.2]

/-- What an operation leaves of `S` when it leaves the slots and the selection. -/
theorem cur_congr {s t : State} (hs : t.slots = s.slots) (hw : t.work.sel = s.work.sel) : t.cur = s.cur := by
  simp [State.cur, State.slot, hs, hw]

@[simp] theorem setStage_cur (g : Stage) (s : State) : (setStage g s).cur = s.cur := cur_congr rfl rfl
@[simp] theorem emit_cur (e : Event) (s : State) : (emit e s).cur = s.cur := cur_congr rfl rfl
@[simp] theorem raiseEv_cur (e : Ev) (s : State) : (raiseEv e s).cur = s.cur := cur_congr rfl rfl
@[simp] theorem finish_cur (c : Code) (v : Nat) (s : State) : (finish c v s).cur = s.cur := cur_congr rfl rfl

theorem Selected.setCur {n : Nat} {s : State} (h : Selected n s) (x : Slot) : Selected n (s.setCur x) := by
  simpa [Selected] using h

/-! ### `raise` by class -/

@[simp] theorem raiseClass_ok (s : State) : raiseClass .ok s = s := rfl
@[simp] theorem raiseClass_invalid (s : State) : raiseClass .invalid s = raiseEv .invalid s := rfl
@[simp] theorem raiseClass_pending (s : State) : raiseClass .pending s = s := rfl
@[simp] theorem raiseClass_unsupported (s : State) : raiseClass .unsupported s = raiseEv .unsupported s := rfl
@[simp] theorem raiseClass_disconnected (s : State) : raiseClass .disconnected s = s := rfl

end Sys2Proof.Machine
end

