-- ==== Sys2Proof/Laws/Memory.lean ====
section
/-! SUPPORT. The laws of sparse memory: a read after a write, the frame of a write, and the canonical form, which every
operation keeps. -/

namespace Sys2Proof.Machine

/-- The canonical form is: every address below every later one. -/
theorem Memory.wf_iff_pairwise (m : Memory) : Memory.wf m = true ↔ m.Pairwise (fun a b => a.1 < b.1) := by
  induction m with
  | nil => simp [Memory.wf]
  | cons a rest ih =>
    cases rest with
    | nil => simp [Memory.wf]
    | cons b rest =>
      simp only [Memory.wf, Bool.and_eq_true, decide_eq_true_eq, ih, List.pairwise_cons, List.mem_cons]
      constructor
      · rintro ⟨hab, hb, hr⟩
        refine ⟨?_, hb, hr⟩
        rintro c (rfl | hc)
        · exact hab
        · exact Nat.lt_trans hab (hb c hc)
      · rintro ⟨ha, hb, hr⟩
        exact ⟨ha b (Or.inl rfl), hb, hr⟩

theorem Memory.read_append (m k : Memory) (a : Nat) :
    Memory.read (m ++ k) a = (Memory.read m a).or (Memory.read k a) := by
  induction m with
  | nil => simp [Memory.read]
  | cons c rest ih =>
    simp only [List.cons_append, Memory.read]
    split <;> simp [ih]

theorem Memory.read_cells (p : List Byte) (a k : Nat) :
    Memory.read (Memory.cells a p) k = if a ≤ k then p[k - a]? else none := by
  induction p generalizing a with
  | nil => simp [Memory.cells, Memory.read]
  | cons b rest ih =>
    simp only [Memory.cells, Memory.read, ih]
    by_cases h : a = k
    · subst h; simp
    · by_cases h' : a ≤ k
      · have e : k - a = (k - (a + 1)) + 1 := by omega
        simp [h, h', e, show a + 1 ≤ k by omega]
      · simp [h, h', show ¬ a + 1 ≤ k by omega]

theorem Memory.read_filter (m : Memory) (q : Nat → Bool) (k : Nat) :
    Memory.read (m.filter (fun c => q c.1)) k = if q k then Memory.read m k else none := by
  induction m with
  | nil => simp [Memory.read]
  | cons c rest ih =>
    by_cases h : c.1 = k
    · subst h
      by_cases hq : q c.1 = true
      · simp [hq, Memory.read]
      · simp only [List.filter_cons, hq]
        simpa [hq] using ih
    · by_cases hq : q c.1 = true
      · simp [hq, Memory.read, h, ih]
      · simp [hq, Memory.read, h, ih]

/-- What a write does to every address: the written range reads as the bytes, every other address as before. -/
theorem Memory.read_write (m : Memory) (a : Nat) (p : List Byte) (k : Nat) :
    Memory.read (Memory.write m a p) k = if a ≤ k ∧ k < a + p.length then p[k - a]? else Memory.read m k := by
  have h1 := Memory.read_filter m (fun x => decide (x < a)) k
  have h2 := Memory.read_filter m (fun x => decide (a + p.length ≤ x)) k
  simp only [Memory.write, Memory.read_append, Memory.read_cells]
  rw [h1, h2]
  by_cases ha : k < a
  · simp [ha, show ¬ a ≤ k by omega, show ¬ a + p.length ≤ k by omega]
  · by_cases hb : a + p.length ≤ k
    · have hn : p[k - a]? = none := by simp; omega
      simp [ha, hb, hn, show ¬ k < a + p.length by omega]
    · simp [ha, hb, show a ≤ k by omega, show k < a + p.length by omega]

/-- Read after write, inside the written range. -/
theorem Memory.read_write_inside (m : Memory) (a : Nat) (p : List Byte) (i : Nat) (h : i < p.length) :
    Memory.read (Memory.write m a p) (a + i) = p[i]? := by
  simp [Memory.read_write, h]

/-- The frame of a write: every other address reads as before. -/
theorem Memory.read_write_outside (m : Memory) (a : Nat) (p : List Byte) (k : Nat) (h : k < a ∨ a + p.length ≤ k) :
    Memory.read (Memory.write m a p) k = Memory.read m k := by
  rw [Memory.read_write, if_neg (by omega)]

theorem Memory.mem_cells (p : List Byte) (a : Nat) (c : Host.Cell) (h : c ∈ Memory.cells a p) :
    a ≤ c.1 ∧ c.1 < a + p.length := by
  induction p generalizing a with
  | nil => simp [Memory.cells] at h
  | cons b rest ih =>
    simp only [Memory.cells, List.mem_cons] at h
    rcases h with rfl | h
    · simp
    · have := ih (a + 1) h
      simp only [List.length_cons]
      omega

theorem Memory.cells_pairwise (p : List Byte) (a : Nat) : (Memory.cells a p).Pairwise (fun x y => x.1 < y.1) := by
  induction p generalizing a with
  | nil => simp [Memory.cells]
  | cons b rest ih =>
    simp only [Memory.cells, List.pairwise_cons]
    exact ⟨fun c hc => by have := Memory.mem_cells rest (a + 1) c hc; omega, ih (a + 1)⟩

/-- A write keeps the canonical form. -/
theorem Memory.write_wf (m : Memory) (a : Nat) (p : List Byte) (h : Memory.wf m = true) :
    Memory.wf (Memory.write m a p) = true := by
  rw [Memory.wf_iff_pairwise] at *
  simp only [Memory.write, List.pairwise_append, List.mem_append, List.mem_filter, decide_eq_true_eq]
  refine ⟨⟨h.filter _, Memory.cells_pairwise p a, ?_⟩, h.filter _, ?_⟩
  · rintro x ⟨-, hx⟩ y hy
    have := Memory.mem_cells p a y hy
    omega
  · rintro x (⟨-, hx⟩ | hx) y ⟨-, hy⟩
    · omega
    · have := Memory.mem_cells p a x hx
      omega

/-- A write below a bound keeps every address below it. -/
theorem Memory.write_below (n : Nat) (m : Memory) (a : Nat) (p : List Byte) (h : Memory.below n m = true)
    (hp : a + p.length ≤ n) : Memory.below n (Memory.write m a p) = true := by
  simp only [Memory.below, List.all_eq_true, decide_eq_true_eq] at *
  intro c hc
  simp only [Memory.write, List.mem_append, List.mem_filter] at hc
  rcases hc with (hc | hc) | hc
  · exact h c hc.1
  · have := Memory.mem_cells p a c hc
    omega
  · exact h c hc.1

/-- Reading `n` bytes from `a` on: byte by byte. -/
theorem Memory.readBytes_eq (free : Nat → Byte) (m : Memory) (a n : Nat) :
    Memory.readBytes free m a n = (List.range n).map (fun i => (Memory.read m (a + i)).getD (free (a + i))) := by
  induction n generalizing a with
  | zero => rfl
  | succ n ih =>
    simp only [Memory.readBytes, ih, List.range_succ_eq_map, List.map_cons, List.map_map, Nat.add_zero]
    congr 1
    apply List.map_congr_left
    intro i _
    simp [Function.comp, Nat.add_assoc, Nat.add_comm 1 i]

@[simp] theorem Memory.readBytes_length (free : Nat → Byte) (m : Memory) (a n : Nat) :
    (Memory.readBytes free m a n).length = n := by
  simp [Memory.readBytes_eq]

end Sys2Proof.Machine
end

