-- ==== Sys2Proof/Laws/Ops.lean ====
section
/-! SUPPORT. One lemma per shared operation that says once everything it can do. Proofs about the meanings cite these and
unfold no operation. -/

namespace Sys2Proof.Machine

/-! ## Records that do not change -/

/-- A slot written back unchanged. -/
theorem set_slot_self (n : Nat) (s : State) : s.slots.set n (s.slot n) = s.slots := by
  by_cases h : n < s.slots.length
  · simp [State.slot, List.getD_eq_getElem?_getD, h]
  · simp [List.set_eq_of_length_le (Nat.le_of_not_lt h)]

theorem setSlot_self (n : Nat) (s : State) : s.setSlot n (s.slot n) = s := by
  simp only [State.setSlot, set_slot_self]

theorem slot_of_getElem? {n : Nat} {s : State} {x : Slot} (h : s.slots[n]? = some x) : s.slot n = x := by
  simp [State.slot, List.getD_eq_getElem?_getD, h]

theorem getElem?_slot {n : Nat} {s : State} (h : n < s.slots.length) : s.slots[n]? = some (s.slot n) := by
  simp [State.slot, List.getD_eq_getElem?_getD, h]

theorem slot_congr {s t : State} (h : t.slots = s.slots) (i : Nat) : t.slot i = s.slot i := by simp [State.slot, h]

@[simp] theorem raiseEv_slot (e : Ev) (s : State) (i : Nat) : (raiseEv e s).slot i = s.slot i := slot_congr rfl i
@[simp] theorem emit_slot (e : Event) (s : State) (i : Nat) : (emit e s).slot i = s.slot i := slot_congr rfl i
@[simp] theorem setStage_slot (g : Stage) (s : State) (i : Nat) : (setStage g s).slot i = s.slot i := slot_congr rfl i
@[simp] theorem select_slot (j : Nat) (s : State) (i : Nat) : (select j s).slot i = s.slot i := slot_congr rfl i
@[simp] theorem setHdr_slot (h : Option Hdr) (s : State) (i : Nat) : (setHdr h s).slot i = s.slot i := slot_congr rfl i
@[simp] theorem finish_slot (c : Code) (v : Nat) (s : State) (i : Nat) : (finish c v s).slot i = s.slot i :=
  slot_congr rfl i
@[simp] theorem endStep_slot (s : State) (i : Nat) : (endStep s).slot i = s.slot i := slot_congr rfl i
@[simp] theorem clearPorts_slot (s : State) (i : Nat) : (clearPorts s).slot i = s.slot i := slot_congr rfl i
@[simp] theorem beginFrame_slot (k : Key) (o r : Bool) (s : State) (i : Nat) : (beginFrame k o r s).slot i = s.slot i :=
  slot_congr rfl i
@[simp] theorem beginControl_slot (k : Key) (s : State) (i : Nat) : (beginControl k s).slot i = s.slot i :=
  slot_congr rfl i

/-! ## `raise` -/

@[simp] theorem raiseClass_slots (k : Class) (s : State) : (raiseClass k s).slots = s.slots := by cases k <;> rfl
@[simp] theorem raiseClass_cfg (k : Class) (s : State) : (raiseClass k s).cfg = s.cfg := by cases k <;> rfl
@[simp] theorem raise_slots (c : Code) (v : Nat) (s : State) : (raise c v s).slots = s.slots := by simp [raise]
@[simp] theorem raise_cfg (c : Code) (v : Nat) (s : State) : (raise c v s).cfg = s.cfg := by simp [raise]
@[simp] theorem raise_slot (c : Code) (v : Nat) (s : State) (i : Nat) : (raise c v s).slot i = s.slot i :=
  slot_congr (by simp) i

/-! ## Routing -/

/-- `findKey` answers the number of a valid slot with that tag, the lowest one. -/
theorem findKey_some {key : Key} {slots : List Slot} {i : Nat} (h : findKey key slots = some i) :
    ∃ x, slots[i]? = some x ∧ x.valid = true ∧ x.tag = key := by
  obtain ⟨hi, hx, -⟩ := List.findIdx?_eq_some_iff_getElem.mp h
  simp only [Bool.and_eq_true, beq_iff_eq] at hx
  exact ⟨slots[i], by simp [hi], hx.1, hx.2⟩

theorem findKey_none {key : Key} {slots : List Slot} :
    findKey key slots = none ↔ ∀ x ∈ slots, x.valid = true → x.tag ≠ key := by
  simp [findKey, List.findIdx?_eq_none_iff]

/-- `findFree` answers the number of the lowest slot that is not valid. -/
theorem findFree_some {slots : List Slot} {i : Nat} (h : findFree slots = some i) :
    ∃ x, slots[i]? = some x ∧ x.valid = false ∧ ∀ j y, j < i → slots[j]? = some y → y.valid = true := by
  obtain ⟨hi, hx, hj⟩ := List.findIdx?_eq_some_iff_getElem.mp h
  refine ⟨slots[i], by simp [hi], by simpa using hx, fun j y hji hy => ?_⟩
  have := hj j hji
  rw [List.getElem?_eq_getElem (by omega)] at hy
  obtain rfl := Option.some.inj hy
  simpa using this

theorem findFree_none {slots : List Slot} : findFree slots = none ↔ ∀ x ∈ slots, x.valid = true := by
  simp [findFree, List.findIdx?_eq_none_iff]

/-- Everything ROUTE can do: select the session of the key, allocate a free slot for it, or answer nothing. -/
theorem route_cases (key : Key) (s : State) :
    (∃ i, findKey key s.slots = some i ∧ i < s.slots.length ∧ route key s = some (select i s))
    ∨ (∃ i, findKey key s.slots = none ∧ findFree s.slots = some i ∧ i < s.slots.length
        ∧ route key s = some (select i (allocate i key s)))
    ∨ (findKey key s.slots = none ∧ findFree s.slots = none ∧ route key s = none) := by
  unfold route
  cases hk : findKey key s.slots with
  | some i =>
    obtain ⟨x, hx, -⟩ := findKey_some hk
    exact .inl ⟨i, rfl, (List.getElem?_eq_some_iff.mp hx).1, rfl⟩
  | none =>
    cases hf : findFree s.slots with
    | some i =>
      obtain ⟨x, hx, -⟩ := findFree_some hf
      exact .inr (.inl ⟨i, rfl, rfl, (List.getElem?_eq_some_iff.mp hx).1, rfl⟩)
    | none => exact .inr (.inr ⟨rfl, rfl, rfl⟩)

/-- A step that passed ROUTE has selected an existing slot. -/
theorem route_selected {key : Key} {s t : State} (h : route key s = some t) : ∃ n, Selected n t := by
  rcases route_cases key s with ⟨i, -, hi, e⟩ | ⟨i, -, -, hi, e⟩ | ⟨-, -, e⟩
  · rw [e] at h; obtain rfl := Option.some.inj h
    exact ⟨i, rfl, hi⟩
  · rw [e] at h; obtain rfl := Option.some.inj h
    exact ⟨i, rfl, by simpa [allocate] using hi⟩
  · rw [e] at h; cases h

/-! ## The deduplicator and the reassembler -/

/-- Everything DDP can do on slot `n`. -/
theorem dedup_cases {n : Nat} {s : State} (h : Selected n s) (m : Message) :
    (Memory.read (s.slot n).seqTab m.cmd.toNat = some m.seq
        ∧ dedup m s = finish .okDuplicate (m.cmd.toNat + 256 * m.seq.toNat) s)
    ∨ (Memory.read (s.slot n).seqTab m.cmd.toNat ≠ some m.seq
        ∧ dedup m s = setStage (.message m)
            (s.setSlot n { s.slot n with seqTab := Memory.write (s.slot n).seqTab m.cmd.toNat [m.seq] })) := by
  unfold dedup
  rw [cur_of_sel h.1, setCur_of_sel h.1]
  by_cases hm : Memory.read (s.slot n).seqTab m.cmd.toNat = some m.seq
  · exact .inl ⟨hm, if_pos hm⟩
  · exact .inr ⟨hm, if_neg hm⟩

theorem discardChunks_eq {n : Nat} {s : State} (h : Selected n s) :
    discardChunks s = s.setSlot n { s.slot n with cstate := .idle } := by
  simp [discardChunks, cur_of_sel h.1, setCur_of_sel h.1]

/-- Everything the order test, the bounds test and the write of a packet can do (rules R154, R155). -/
theorem chunkAppend_cases {n : Nat} {s : State} (h : Selected n s) (off : Nat) (p : List Byte) :
    (off ≠ (s.slot n).receivedLen
        ∧ chunkAppend off p s = raise .invChunkOrder off (s.setSlot n { s.slot n with cstate := .idle }))
    ∨ (off = (s.slot n).receivedLen ∧ (s.slot n).declaredLen < off + p.length
        ∧ chunkAppend off p s = raise .invChunkBounds (off + p.length) (s.setSlot n { s.slot n with cstate := .idle }))
    ∨ (off = (s.slot n).receivedLen ∧ off + p.length ≤ (s.slot n).declaredLen
        ∧ chunkAppend off p s = raise .pending (off + p.length)
            (s.setSlot n { s.slot n with
              cb := Memory.write (s.slot n).cb off p, receivedLen := off + p.length })) := by
  unfold chunkAppend chunkStore
  rw [discardChunks_eq h, cur_of_sel h.1, setCur_of_sel h.1]
  by_cases h1 : off ≠ (s.slot n).receivedLen
  · exact .inl ⟨h1, if_pos h1⟩
  · have h1' : off = (s.slot n).receivedLen := Decidable.not_not.mp h1
    by_cases h2 : off + p.length > (s.slot n).declaredLen
    · exact .inr (.inl ⟨h1', h2, by rw [if_neg h1, if_pos h2]⟩)
    · exact .inr (.inr ⟨h1', Nat.le_of_not_lt h2, by rw [if_neg h1, if_neg h2]⟩)

/-- Everything a terminator can do in an open sequence (rules R156, R157). -/
theorem chunkTerminate_cases {n : Nat} {s : State} (h : Selected n s) (hd : Hdr) (x : Nat) :
    ((s.slot n).receivedLen ≠ (s.slot n).declaredLen
        ∧ chunkTerminate hd x s = raise .invChunkOrder x (s.setSlot n { s.slot n with cstate := .idle }))
    ∨ ((s.slot n).receivedLen = (s.slot n).declaredLen
        ∧ chunkTerminate hd x s = dedup
            { cmd := hd.cmd, flags := clearChunkFlags s.cfg.hdr hd.flags, seq := hd.seq,
              data := Memory.readBytes (Config.chunkBufPowerOn n) (s.slot n).cb 0 (s.slot n).declaredLen }
            (s.setSlot n { s.slot n with cstate := .idle })) := by
  unfold chunkTerminate reassembled
  rw [discardChunks_eq h, cur_of_sel h.1, selNo_of_sel h.1]
  by_cases h1 : (s.slot n).receivedLen ≠ (s.slot n).declaredLen
  · exact .inl ⟨h1, if_pos h1⟩
  · exact .inr ⟨Decidable.not_not.mp h1, if_neg h1⟩

/-! ## The mapper -/

/-- Everything `construct` can do (rules R190, R301). -/
theorem construct_cases {n : Nat} {s : State} (h : Selected n s) (k : Kind) (am : AxisMode) (pm : PickupMode) :
    (s.work.openOk = false ∧ construct k am pm s = raiseEv .unsupported s)
    ∨ (s.work.openOk = true ∧ construct k am pm s =
        { s with slots := s.slots.set n ((s.slot n).mapped k am pm), events := s.events ++ opens n k }) := by
  unfold construct
  rw [cur_of_sel h.1, setCur_of_sel h.1, selNo_of_sel h.1]
  cases ho : s.work.openOk with
  | false => exact .inl ⟨rfl, rfl⟩
  | true =>
    refine .inr ⟨rfl, ?_⟩
    by_cases hk : k = .legacyDemux <;> simp [hk, emit, State.setSlot, opens, Slot.mapped]

/-- Everything `factory` can do (rule R192): exactly one match constructs its entry, any other number the Fallback. -/
theorem factory_cases (s : State) :
    (∃ e, guidMatches s.cfg s.cur.guids = [e] ∧ factory s = construct e.kind e.axisMode e.pickupMode s)
    ∨ ((guidMatches s.cfg s.cur.guids).length ≠ 1
        ∧ factory s = construct .fallback .full .continuous (raiseEv .selAmbig s)) := by
  unfold factory
  rcases guidMatches s.cfg s.cur.guids with _ | ⟨e, _ | ⟨e', rest⟩⟩
  · exact .inr ⟨by simp, rfl⟩
  · exact .inl ⟨e, rfl, rfl⟩
  · exact .inr ⟨by simp, rfl⟩

/-- Everything lazy construction can do on slot `n` (rule R196). -/
theorem lazyFallback_cases {n : Nat} {s : State} (h : Selected n s) (hk : (s.slot n).mapper.kind = .none) :
    (s.work.openOk = false ∧ lazyFallback s = raiseEv .unsupported s)
    ∨ (s.work.openOk = true ∧ (s.slot n).fbWarned = true ∧ lazyFallback s =
        { s with
          slots := s.slots.set n ((s.slot n).mapped .fallback .full .continuous)
          events := s.events ++ opens n .fallback })
    ∨ (s.work.openOk = true ∧ (s.slot n).fbWarned = false ∧ lazyFallback s = raiseEv .fallbackLazy
        { s with
          slots := s.slots.set n { (s.slot n).mapped .fallback .full .continuous with fbWarned := true }
          events := s.events ++ opens n .fallback }) := by
  unfold lazyFallback
  rcases construct_cases h .fallback .full .continuous with ⟨ho, e⟩ | ⟨ho, e⟩
  · refine .inl ⟨ho, ?_⟩
    simp only [e]
    rw [if_pos (by rw [raiseEv_cur, cur_of_sel h.1, hk])]
  · simp only [e]
    have hc : State.cur { s with
        slots := s.slots.set n ((s.slot n).mapped .fallback .full .continuous),
        events := s.events ++ opens n .fallback } = (s.slot n).mapped .fallback .full .continuous := by
      simp [State.cur, State.slot, h.1, h.2]
    rw [hc, if_neg (by simp [Slot.mapped])]
    cases hw : (s.slot n).fbWarned with
    | true => exact .inr (.inl ⟨ho, rfl, by rw [if_pos (by simp [Slot.mapped, hw])]⟩)
    | false =>
      refine .inr (.inr ⟨ho, rfl, ?_⟩)
      rw [if_neg (by simp [Slot.mapped, hw])]
      simp [State.setCur, State.setSlot, h.1]

/-- Everything `forward` can do once the session has a mapper (rules R187, R195). -/
theorem forward_mapper {s : State} (h : s.cur.mapper.kind ≠ .none) (m : Message) :
    forward m s = if s.work.ready = false then raise .unsNotReady 0 s else setStage (.report m) s := by
  simp [forward, h]

/-- `forward` of a session without a mapper: lazy construction first (rules R187, R196). -/
theorem forward_none {s : State} (h : s.cur.mapper.kind = .none) (m : Message) :
    forward m s =
      if (lazyFallback s).cur.mapper.kind = .none then raise .unsNoSink 0 (lazyFallback s)
      else if (lazyFallback s).work.ready = false then raise .unsNotReady 0 (lazyFallback s)
      else setStage (.report m) (lazyFallback s) := by
  simp [forward, h]

/-- What `teardown` does (rule R197): nothing without a mapper, else the slot torn down and its handles closed. -/
theorem teardown_eq (i : Nat) (s : State) :
    teardown i s = { s with slots := s.slots.set i (s.slot i).torn, events := s.events ++ closes i (s.slot i) } := by
  by_cases hk : (s.slot i).mapper.kind = .none
  · have ht : (s.slot i).torn = s.slot i := by
      simp only [Slot.torn, hk]
      rw [if_neg (by simp), ← hk]
    simp [teardown, closes, hk, ht, set_slot_self]
  · simp [teardown, closes, hk, Slot.torn, State.setSlot, List.append_assoc]

@[simp] theorem torn_valid (x : Slot) : x.torn.valid = x.valid := rfl
@[simp] theorem torn_tag (x : Slot) : x.torn.tag = x.tag := rfl
@[simp] theorem torn_cb (x : Slot) : x.torn.cb = x.cb := rfl
@[simp] theorem torn_kind (x : Slot) : x.torn.mapper.kind = .none := rfl

/-! ## The report commit -/

/-- What `commit` does on slot `n` (rule R243). -/
theorem commit_eq {n : Nat} {s : State} (h : Selected n s) (o : Out) :
    commit o s = finish .okReport (kindCode o.tag)
      (emit (.sinkSubmit n none { o with guide := (s.slot n).out.guide })
        (s.setSlot n { s.slot n with out := { o with guide := (s.slot n).out.guide } })) := by
  simp [commit, cur_of_sel h.1, setCur_of_sel h.1, selNo_of_sel h.1]

/-- What `commitChild` does on slot `n` (rules R243, R305). -/
theorem commitChild_eq {n : Nat} {s : State} (h : Selected n s) (u : Nat) (o : Out) :
    commitChild u o s = finish .okReport (kindCode o.tag + 256 * u)
      (emit (.sinkSubmit n (some u) { o with guide := (s.child u).out.guide })
        (s.setSlot n { s.slot n with
          children := (s.slot n).children.set u { s.child u with out := { o with guide := (s.child u).out.guide } } })) := by
  simp [commitChild, State.setChild, cur_of_sel h.1, setCur_of_sel h.1, selNo_of_sel h.1]

/-- The child that a slot lists at `u`. -/
theorem child_of_getElem? {n u : Nat} {s : State} {c : Child} (h : s.work.sel = some n)
    (hc : (s.slot n).children[u]? = some c) : s.child u = c := by
  simp [State.child, cur_of_sel h, List.getD_eq_getElem?_getD, hc]

/-- What `disposeChild` does on slot `n` (rule R304). -/
theorem disposeChild_eq {n u : Nat} {s : State} {c : Child} (h : Selected n s)
    (hc : (s.slot n).children[u]? = some c) :
    disposeChild u s = { s with
      slots := s.slots.set n { s.slot n with children := (s.slot n).children.set u { c with kind := .none } }
      events := s.events ++ (if c.kind = .none then [] else [.sinkClose n (some u)]) } := by
  have hu : u < (s.slot n).children.length := (List.getElem?_eq_some_iff.mp hc).1
  have hcu : (s.slot n).children[u] = c := (List.getElem?_eq_some_iff.mp hc).2
  unfold disposeChild
  rw [child_of_getElem? h.1 hc]
  by_cases hk : c.kind = .none
  · have he : { c with kind := .none } = c := by cases c; simp_all
    have hs : (s.slot n).children.set u c = (s.slot n).children := by rw [← hcu]; simp
    have hx : { s.slot n with children := (s.slot n).children } = s.slot n := rfl
    rw [if_pos hk, he, hs, hx, set_slot_self]
    simp [hk]
  · simp [hk, State.setChild, cur_of_sel h.1, setCur_of_sel h.1, selNo_of_sel h.1, emit, State.setSlot]

/-- Everything the shared part of an `LGY.*` row can do (rules R302, R303). -/
theorem withUser_cases (m : Message) (s : State) (k : LgyCfg → Nat → State) :
    (s.cfg.lgy = none ∧ withUser m s k = ignoreMessage s)
    ∨ ∃ l, s.cfg.lgy = some l ∧
      ((m.data.length ≤ l.userOff ∧ withUser m s k = ignoreMessage s)
      ∨ (l.userOff < m.data.length ∧ l.nUsers ≤ (byteAt m.data l.userOff).toNat
          ∧ withUser m s k = ignoreMessage (raiseEv .lgyUnknown s))
      ∨ (l.userOff < m.data.length ∧ (byteAt m.data l.userOff).toNat < l.nUsers
          ∧ withUser m s k = k l (byteAt m.data l.userOff).toNat)) := by
  unfold withUser
  cases hl : s.cfg.lgy with
  | none => exact .inl ⟨rfl, rfl⟩
  | some l =>
    refine .inr ⟨l, rfl, ?_⟩
    by_cases h1 : m.data.length ≤ l.userOff
    · exact .inl ⟨h1, by simp [h1]⟩
    · by_cases h2 : l.nUsers ≤ (byteAt m.data l.userOff).toNat
      · exact .inr (.inl ⟨Nat.lt_of_not_le h1, h2, by simp [h1, h2]⟩)
      · exact .inr (.inr ⟨Nat.lt_of_not_le h1, Nat.lt_of_not_le h2, by simp [h1, h2]⟩)

/-! ## Free values keep the shapes of their registers -/

theorem Memory.ofCells_wf (n : Nat) (l : List Host.Cell) : Memory.wf (Memory.ofCells n l) = true := by
  induction l with
  | nil => rfl
  | cons c rest ih =>
    simp only [Memory.ofCells]
    split
    · exact Memory.write_wf _ _ _ ih
    · exact ih

theorem Memory.ofCells_below (n : Nat) (l : List Host.Cell) : Memory.below n (Memory.ofCells n l) = true := by
  induction l with
  | nil => rfl
  | cons c rest ih =>
    simp only [Memory.ofCells]
    split
    · exact Memory.write_below n _ _ _ ih (by simpa)
    · exact ih

/-- What an allocated slot starts with: canonical memories, lengths of `LEN_W` bits (rule R46). -/
theorem allocatedSlot_shape (c : Cfg) (key : Key) (d : Nat) (x : Slot) (h : x.shapeOk c) :
    (allocatedSlot c key d x).shapeOk c := by
  obtain ⟨h1, h2, -, -, -, h6⟩ := h
  exact ⟨h1, h2, ⟨rfl, rfl⟩, Nat.mod_lt _ (Nat.two_pow_pos _), Nat.mod_lt _ (Nat.two_pow_pos _),
    by simpa [allocatedSlot] using h6⟩

theorem resetChildren_length (d i u : Nat) (l : List Child) : (resetChildren d i u l).length = l.length := by
  induction l generalizing u with
  | nil => rfl
  | cons x rest ih => simp [resetChildren, ih]

/-- What RESET leaves of the slots (rules R46, R372): their number, no valid one, the chunk buffers, every shape. -/
theorem resetSlots_spec (c : Cfg) (d i : Nat) (l : List Slot) :
    (resetSlots c d i l).length = l.length ∧ (∀ x ∈ resetSlots c d i l, x.valid = false)
      ∧ (resetSlots c d i l).map (·.cb) = l.map (·.cb)
      ∧ ((∀ x ∈ l, x.shapeOk c) → ∀ x ∈ resetSlots c d i l, x.shapeOk c) := by
  induction l generalizing i with
  | nil => simp [resetSlots]
  | cons y rest ih =>
    obtain ⟨h1, h2, h3, h4⟩ := ih (i + 1)
    refine ⟨by simp [resetSlots, h1], ?_, by simp [resetSlots, h3], ?_⟩
    · intro x hx
      rcases List.mem_cons.mp hx with rfl | hx
      · rfl
      · exact h2 x hx
    · intro hl x hx
      rcases List.mem_cons.mp hx with rfl | hx
      · obtain ⟨w1, w2, -, -, -, w6⟩ := hl y (by simp)
        exact ⟨w1, w2, ⟨Memory.ofCells_wf _ _, Memory.ofCells_below _ _⟩, Nat.mod_lt _ (Nat.two_pow_pos _),
          Nat.mod_lt _ (Nat.two_pow_pos _), by simpa [resetChildren_length] using w6⟩
      · exact h4 (fun z hz => hl z (by simp [hz])) x hx

/-- Every slot of the state after reset is the reset slot of its configuration. -/
theorem slot_of_reset {c : Cfg} {x : Slot} (h : x ∈ (State.resetFor c).slots) : x = Slot.resetFor c :=
  List.eq_of_mem_replicate h

/-- The memories of the state after reset are in canonical form. -/
theorem reset_memory_wf (c : Cfg) :
    ∀ x ∈ (State.resetFor c).slots, Memory.wf x.cb = true ∧ Memory.wf x.seqTab = true := by
  intro x hx
  obtain rfl := slot_of_reset hx
  exact ⟨rfl, rfl⟩

/-! ## The meanings always answer a next state -/

/-- No row faults or is refused (00_scope.md rule R8). -/
theorem exec_next (i : Instr) (s : State) : ∃ t, exec i s = .next t := by cases i <;> exact ⟨_, rfl⟩

end Sys2Proof.Machine
end

