-- ==== Sys2Proof/Laws/PerInstr.lean ====
section
/-! SUPPORT. Statements made once per instruction. The family `EncodePort`: the encoding of an instruction goes to the port
of its level, a frame of at least prefix and length field to the frame port, an assigned operation number to the control
port (30_encoding.md rules R91, R92, R99). -/

namespace Sys2Proof.Laws.EncodePort

/-- A wire form that suits an instruction of level `l`. -/
def suits (l : Level) : Wire → Prop
  | .frame bytes => l ≠ .control ∧ 4 ≤ bytes.length
  | .control op _ _ _ => l = .control ∧ op ≤ 4

/-- Whatever the configuration, the encoding of the instruction suits its level. -/
def Statement (i : Instr) : Prop := ∀ c : Cfg, suits i.level (encode c i)

theorem leb_length (v : Nat) : 1 ≤ (leb v).length := by
  unfold leb
  cases v with
  | zero => simp [lebFrom]
  | succ n => simp only [lebFrom]; split <;> simp

theorem encodeH_suits (c : Cfg) (l : Level) (hl : l ≠ .control) (h : Hdr) (p : List Byte) :
    suits l (encodeH c h p) := by
  have := leb_length p.length
  refine ⟨hl, ?_⟩
  simp only [encodePrefix, List.length_append, List.length_map, List.length_range]
  omega

theorem encodeHC_suits (c : Cfg) (l : Level) (hl : l ≠ .control) (h : Hdr) (x : Nat) (p : List Byte) :
    suits l (encodeHC c h x p) := by
  have := leb_length p.length
  refine ⟨hl, ?_⟩
  simp only [encodePrefix, List.length_append, List.length_map, List.length_range]
  omega

theorem msg (h : Hdr) (p : List Byte) : Statement (.msg h p) := fun c => encodeH_suits c _ (fun h => Level.noConfusion h) _ _
theorem chkNop (h : Hdr) : Statement (.chkNop h) := fun c => encodeHC_suits c _ (fun h => Level.noConfusion h) _ _ _
theorem chkS (h : Hdr) (x : Nat) (p : List Byte) : Statement (.chkS h x p) := fun c => encodeHC_suits c _ (fun h => Level.noConfusion h) _ _ _
theorem chkE (h : Hdr) (x : Nat) : Statement (.chkE h x) := fun c => encodeHC_suits c _ (fun h => Level.noConfusion h) _ _ _
theorem chkD (h : Hdr) (x : Nat) (p : List Byte) : Statement (.chkD h x p) := fun c => encodeHC_suits c _ (fun h => Level.noConfusion h) _ _ _
theorem ack (m : Message) : Statement (.ack m) := fun c => encodeH_suits c _ (fun h => Level.noConfusion h) _ _
theorem arrival (m : Message) : Statement (.arrival m) := fun c => encodeH_suits c _ (fun h => Level.noConfusion h) _ _
theorem descriptor (m : Message) : Statement (.descriptor m) := fun c => encodeH_suits c _ (fun h => Level.noConfusion h) _ _
theorem auth (m : Message) : Statement (.auth m) := fun c => encodeH_suits c _ (fun h => Level.noConfusion h) _ _
theorem keystroke (m : Message) : Statement (.keystroke m) := fun c => encodeH_suits c _ (fun h => Level.noConfusion h) _ _
theorem serial (m : Message) : Statement (.serial m) := fun c => encodeH_suits c _ (fun h => Level.noConfusion h) _ _
theorem input (m : Message) : Statement (.input m) := fun c => encodeH_suits c _ (fun h => Level.noConfusion h) _ _
theorem ghlInput (m : Message) : Statement (.ghlInput m) := fun c => encodeH_suits c _ (fun h => Level.noConfusion h) _ _
theorem other (m : Message) : Statement (.other m) := fun c => encodeH_suits c _ (fun h => Level.noConfusion h) _ _
theorem inputGtr (m : Message) : Statement (.inputGtr m) := fun c => encodeH_suits c _ (fun h => Level.noConfusion h) _ _
theorem inputDrm (m : Message) : Statement (.inputDrm m) := fun c => encodeH_suits c _ (fun h => Level.noConfusion h) _ _
theorem ghlInputGhl (m : Message) : Statement (.ghlInputGhl m) := fun c => encodeH_suits c _ (fun h => Level.noConfusion h) _ _
theorem inputPad (m : Message) : Statement (.inputPad m) := fun c => encodeH_suits c _ (fun h => Level.noConfusion h) _ _
theorem inputFb (m : Message) : Statement (.inputFb m) := fun c => encodeH_suits c _ (fun h => Level.noConfusion h) _ _
theorem keystrokeGuide (m : Message) : Statement (.keystrokeGuide m) := fun c => encodeH_suits c _ (fun h => Level.noConfusion h) _ _
theorem lgyConnect (m : Message) : Statement (.lgyConnect m) := fun c => encodeH_suits c _ (fun h => Level.noConfusion h) _ _
theorem lgyDisconnect (m : Message) : Statement (.lgyDisconnect m) := fun c => encodeH_suits c _ (fun h => Level.noConfusion h) _ _
theorem lgyInput (m : Message) : Statement (.lgyInput m) := fun c => encodeH_suits c _ (fun h => Level.noConfusion h) _ _
theorem noop (m : Message) : Statement (.noop m) := fun c => encodeH_suits c _ (fun h => Level.noConfusion h) _ _
theorem reset : Statement .reset := fun _ => ⟨rfl, by omega⟩
theorem close (k : Key) : Statement (.close k) := fun _ => ⟨rfl, by omega⟩
theorem sinkLost (k : Key) : Statement (.sinkLost k) := fun _ => ⟨rfl, by omega⟩
theorem csrRead (n : Nat) : Statement (.csrRead n) := fun _ => ⟨rfl, by omega⟩
theorem csrW1c (n : Nat) (mask : BitVec 16) : Statement (.csrW1c n mask) := fun _ => ⟨rfl, by omega⟩

end Sys2Proof.Laws.EncodePort
end

