-- ==== Sys2Proof/Tests/Slice0.lean ====
section
/-! SUPPORT. The model's own tests: the smoke test of WellFormed, the decoding of words written out from the spec's
encodings, one-step tests from 95_test_vectors.md, and for every statement with hypotheses a witness that they can be
met. -/

namespace Sys2Proof.Tests

open Sys2Proof.Machine

/- One theorem at a time: the kernel evaluations of this file, all waiting for one another, would each hold a thread. -/
set_option Elab.async false

/-! ## Configurations -/

/-- `REFCFG` with the Gamepad layout (95_test_vectors.md, table PAD). -/
def padCfg : Cfg :=
  { refCfg with
    hasGamepad := true
    guidTable := refCfg.guidTable ++ [⟨placeholderGuid 0xD0, .gamepad, .full, .continuous⟩] }

/-- `REFCFG` with a legacy demultiplexer: the values of table LGY, the symbols g, d, C, X, I as 0A, 0B, 50, 51, 52. -/
def lgyCfg : Cfg :=
  { refCfg with
    guidTable := refCfg.guidTable ++ [⟨placeholderGuid 0x90, .legacyDemux, .full, .continuous⟩]
    lgy := some { nUsers := 4, cmdConnect := 0x50, cmdDisconnect := 0x51, cmdInput := 0x52, userOff := 0,
                  connectMin := 2, subtypeOff := 1, subtypesGuitar := [0x0A], subtypeDrums := 0x0B, innerOff := 1 } }

/-- `REFCFG` with `GUIDE_EN[Guitar]` = 1 (table KEY). -/
def keyCfg : Cfg := { refCfg with guideEn := [.guitar] }

/-- A configuration whose length fields have no bits, for the checks on lengths. -/
def noLenCfg : Cfg := { refCfg with varintMaxBytes := 0 }

theorem test_configurations_wf : [refCfg, padCfg, lgyCfg, keyCfg].all Cfg.wf = true := by decide +kernel
theorem test_configuration_needs_four_varint_bytes : noLenCfg.wf = false := by decide +kernel

/-! ## The smoke test of WellFormed: an ill-formed term for each check -/

/-- Not a single term of the list is well-formed in its context. -/
def noneWf (l : List (Ctx × Instr)) : Bool := l.all fun t => !t.2.wf t.1

/-- A context of `REFCFG`. -/
def cx (k : Kind) : Ctx := { cfg := refCfg, openTotal := none, kind := k }

/-- A context with an open sequence of total 8. -/
def openCx : Ctx := { cfg := refCfg, openTotal := some 8, kind := .none }

/-- A context whose length fields have no bits. -/
def noLenCx (k : Kind) : Ctx := { cfg := noLenCfg, openTotal := none, kind := k }

/-- A message of `n` zero bytes. -/
def zeros (cmd : Byte) (n : Nat) : Message := ⟨cmd, 0, 1, List.replicate n 0⟩

theorem test_wf_refuses_framing : noneWf
    [(cx .none, .msg ⟨1, 0x40, 0⟩ []), (cx .none, .msg ⟨1, 0x80, 0⟩ []), (noLenCx .none, .msg ⟨1, 0, 0⟩ [1]),
     (cx .none, .chkNop ⟨1, 0x3F, 0⟩),
     (cx .none, .chkS ⟨1, 0x80, 0⟩ 8 [1]), (cx .none, .chkS ⟨1, 0xC0, 0⟩ (2 ^ 28) [1]),
     (noLenCx .none, .chkS ⟨1, 0xC0, 0⟩ 0 [1]), (cx .none, .chkS ⟨1, 0xC0, 0⟩ 0 []),
     (openCx, .chkE ⟨1, 0x00, 0⟩ 8), (openCx, .chkE ⟨1, 0xC0, 0⟩ 8), (openCx, .chkE ⟨1, 0x80, 0⟩ 7),
     (cx .none, .chkE ⟨1, 0x80, 0⟩ 8), ({ openCx with openTotal := some 0 }, .chkE ⟨1, 0x80, 0⟩ 0),
     ({ openCx with openTotal := some (2 ^ 28) }, .chkE ⟨1, 0x80, 0⟩ (2 ^ 28)),
     (cx .none, .chkD ⟨1, 0x00, 0⟩ 8 [1]), (cx .none, .chkD ⟨1, 0xC0, 0⟩ 8 [1]),
     (cx .none, .chkD ⟨1, 0x80, 0⟩ (2 ^ 28) [1]), (noLenCx .none, .chkD ⟨1, 0x80, 0⟩ 0 [1]),
     (cx .none, .chkD ⟨1, 0x80, 0⟩ 0 []), (openCx, .chkD ⟨1, 0x80, 0⟩ 8 [])] = true := by decide +kernel

theorem test_wf_refuses_dispatch : noneWf
    [(cx .none, .ack (zeros 2 0)), (cx .none, .arrival (zeros 1 0)), (cx .none, .descriptor (zeros 1 0)),
     (cx .none, .auth (zeros 1 0)), (cx .none, .keystroke (zeros 1 0)), (cx .none, .serial (zeros 1 0)),
     (cx .none, .input (zeros 1 0)), (cx .none, .ghlInput (zeros 1 0)), (cx .none, .other (zeros 1 0)),
     (cx .none, .ack ⟨1, 0x40, 0, []⟩), (noLenCx .none, .ack (zeros 1 1))] = true := by decide +kernel

theorem test_wf_refuses_report : noneWf
    [(cx .drums, .inputGtr (zeros 0x20 10)), (cx .guitar, .inputGtr (zeros 0x21 10)), (cx .guitar, .inputGtr (zeros 0x20 9)),
     (cx .guitar, .inputDrm (zeros 0x20 6)), (cx .drums, .inputDrm (zeros 0x21 6)), (cx .drums, .inputDrm (zeros 0x20 7)),
     (cx .drums, .ghlInputGhl (zeros 0x21 8)), (cx .sixFret, .ghlInputGhl (zeros 0x20 8)),
     (cx .sixFret, .ghlInputGhl (zeros 0x21 7)),
     (cx .gamepad, .inputPad (zeros 0x20 14)), (⟨padCfg, none, .guitar⟩, .inputPad (zeros 0x20 14)),
     (⟨padCfg, none, .gamepad⟩, .inputPad (zeros 0x21 14)), (⟨padCfg, none, .gamepad⟩, .inputPad (zeros 0x20 13)),
     (cx .guitar, .inputFb (zeros 0x20 6)), (cx .fallback, .inputFb (zeros 0x07 2)),
     (cx .legacyDemux, .keystrokeGuide (zeros 0x07 2)), (cx .guitar, .keystrokeGuide (zeros 0x20 2)),
     (cx .legacyDemux, .lgyConnect (zeros 0x50 2)), (⟨lgyCfg, none, .guitar⟩, .lgyConnect (zeros 0x50 2)),
     (⟨lgyCfg, none, .legacyDemux⟩, .lgyConnect (zeros 0x51 2)), (⟨lgyCfg, none, .legacyDemux⟩, .lgyDisconnect (zeros 0x50 1)),
     (⟨lgyCfg, none, .legacyDemux⟩, .lgyInput (zeros 0x50 1)),
     (cx .guitar, .noop (zeros 0x20 10)), (cx .fallback, .noop (zeros 0x33 0)), (cx .guitar, .noop (zeros 0x07 2)),
     (cx .guitar, .noop ⟨0x33, 0x80, 0, []⟩), (noLenCx .guitar, .noop (zeros 0x33 1))] = true := by decide +kernel

/-! ## Decoding: words written out from the spec's encodings (30_encoding.md, 95_test_vectors.md) -/

/-- The instruction the decoder reads from a frame. -/
def dec (x : Ctx) (l : Level) (bytes : List Byte) : Option Instr :=
  match decode x l (.frame bytes) with
  | .ok i => some i
  | .bad _ => none

/-- A context of the legacy demultiplexer. -/
def lgyCx : Ctx := ⟨lgyCfg, none, .legacyDemux⟩

theorem test_decode_framing :
    dec (cx .none) .framing [0x20, 0x00, 0x05, 0x02, 0xAA, 0xBB] = some (.msg ⟨0x20, 0, 5⟩ [0xAA, 0xBB])
    ∧ dec (cx .none) .framing [0x04, 0x80, 0x01, 0x00, 0x80, 0x00] = some (.chkNop ⟨4, 0x80, 1⟩)
    ∧ dec (cx .none) .framing [0x1E, 0xC0, 0x01, 0x01, 0x08, 0x01] = some (.chkS ⟨0x1E, 0xC0, 1⟩ 8 [1])
    ∧ dec openCx .framing [0x1E, 0x80, 0x01, 0x00, 0x08] = some (.chkE ⟨0x1E, 0x80, 1⟩ 8)
    ∧ dec openCx .framing [0x1E, 0x80, 0x02, 0x01, 0x04, 0x05] = some (.chkD ⟨0x1E, 0x80, 2⟩ 4 [5]) := by
  decide +kernel

theorem test_decode_dispatch :
    dec (cx .none) .dispatch [0x01, 0x20, 0x01, 0x02, 0xAA, 0xBB] = some (.ack ⟨1, 0x20, 1, [0xAA, 0xBB]⟩)
    ∧ dec (cx .none) .dispatch [0x02, 0x00, 0x07, 0x01, 0x00] = some (.arrival ⟨2, 0, 7, [0]⟩)
    ∧ dec (cx .none) .dispatch [0x04, 0x00, 0x00, 0x01, 0x10] = some (.descriptor ⟨4, 0, 0, [0x10]⟩)
    ∧ dec (cx .none) .dispatch [0x06, 0x30, 0x01, 0x00] = some (.auth ⟨6, 0x30, 1, []⟩)
    ∧ dec (cx .none) .dispatch [0x07, 0x00, 0x01, 0x02, 0x01, 0x5B] = some (.keystroke ⟨7, 0, 1, [1, 0x5B]⟩)
    ∧ dec (cx .none) .dispatch [0x1E, 0x00, 0x01, 0x01, 0x55] = some (.serial ⟨0x1E, 0, 1, [0x55]⟩)
    ∧ dec (cx .none) .dispatch [0x20, 0x00, 0x01, 0x01, 0x55] = some (.input ⟨0x20, 0, 1, [0x55]⟩)
    ∧ dec (cx .none) .dispatch [0x21, 0x00, 0x01, 0x01, 0x55] = some (.ghlInput ⟨0x21, 0, 1, [0x55]⟩)
    ∧ dec (cx .none) .dispatch [0x33, 0x00, 0x01, 0x00] = some (.other ⟨0x33, 0, 1, []⟩) := by decide +kernel

theorem test_decode_report :
    dec (cx .guitar) .report [0x20, 0x00, 0x01, 0x0A, 0, 0, 0, 0, 0, 0x1F, 0, 0, 0, 0]
        = some (.inputGtr ⟨0x20, 0, 1, [0, 0, 0, 0, 0, 0x1F, 0, 0, 0, 0]⟩)
    ∧ dec (cx .drums) .report [0x20, 0x00, 0x01, 0x06, 0, 0, 0x0F, 0, 0x70, 0]
        = some (.inputDrm ⟨0x20, 0, 1, [0, 0, 0x0F, 0, 0x70, 0]⟩)
    ∧ dec (cx .sixFret) .report [0x21, 0x00, 0x01, 0x08, 9, 1, 0, 0, 0, 0, 0xC0, 0]
        = some (.ghlInputGhl ⟨0x21, 0, 1, [9, 1, 0, 0, 0, 0, 0xC0, 0]⟩)
    ∧ dec ⟨padCfg, none, .gamepad⟩ .report [0x20, 0x00, 0x01, 0x0E, 4, 0, 0xFF, 3, 0, 0, 0, 0x80, 0xFF, 0x7F, 0, 0, 1, 0]
        = some (.inputPad ⟨0x20, 0, 1, [4, 0, 0xFF, 3, 0, 0, 0, 0x80, 0xFF, 0x7F, 0, 0, 1, 0]⟩)
    ∧ dec (cx .fallback) .report [0x20, 0x00, 0x01, 0x01, 0x55] = some (.inputFb ⟨0x20, 0, 1, [0x55]⟩)
    ∧ dec (cx .guitar) .report [0x07, 0x00, 0x01, 0x02, 0x01, 0x5B] = some (.keystrokeGuide ⟨7, 0, 1, [1, 0x5B]⟩)
    ∧ dec lgyCx .report [0x50, 0x00, 0x01, 0x02, 0x02, 0x0A] = some (.lgyConnect ⟨0x50, 0, 1, [2, 0x0A]⟩)
    ∧ dec lgyCx .report [0x51, 0x00, 0x01, 0x01, 0x02] = some (.lgyDisconnect ⟨0x51, 0, 1, [2]⟩)
    ∧ dec lgyCx .report [0x52, 0x00, 0x01, 0x02, 0x02, 0x00] = some (.lgyInput ⟨0x52, 0, 1, [2, 0]⟩)
    ∧ dec (cx .guitar) .report [0x20, 0x00, 0x01, 0x01, 0x55] = some (.noop ⟨0x20, 0, 1, [0x55]⟩) := by decide +kernel

theorem test_decode_control (x : Ctx) :
    decode x .control (.control 0 5 6 7) = .ok .reset
    ∧ decode x .control (.control 1 5 6 7) = .ok (.close 5)
    ∧ decode x .control (.control 2 5 6 7) = .ok (.sinkLost 5)
    ∧ decode x .control (.control 3 5 6 7) = .ok (.csrRead 6)
    ∧ decode x .control (.control 4 5 6 7) = .ok (.csrW1c 6 7)
    ∧ decode x .control (.control 5 5 6 7) = .bad (.opUnassigned 5) := ⟨rfl, rfl, rfl, rfl, rfl, rfl⟩

/-- Vectors HDR-2, HDR-3, HDR-5, HDR-10: rejected by name; a chunked frame has no level-2 row. -/
theorem test_decode_rejects :
    decode (cx .none) .framing (.frame [0x20, 0x00]) = .bad (.hdrShort 2)
    ∧ decode (cx .none) .framing (.frame [0x20, 0x00, 0x05]) = .bad (.varintTrunc 0 3)
    ∧ decode (cx .none) .framing (.frame [0x20, 0x00, 0x05, 0x80, 0x80, 0x80, 0x80]) = .bad (.varintLong 0 7)
    ∧ decode (cx .none) .framing (.frame [0x01, 0x00, 0x08, 0x03, 0xAA, 0xBB]) = .bad (.payloadShort 2)
    ∧ decode (cx .none) .dispatch (.frame [0x04, 0x80, 0x01, 0x00, 0x00]) = .bad .notAMessage
    ∧ decode (cx .none) .control (.frame []) = .bad .wrongPort := by decide +kernel

/-- Words of opcode-table rows: a framing row, two dispatch rows, a control row. -/
theorem test_decodeTableWord :
    decodeTableWord 16 0x0001 = some (.msg ⟨1, 0, 0⟩ [])
    ∧ decodeTableWord 8 0x20 = some (.input ⟨0x20, 0, 0, []⟩)
    ∧ decodeTableWord 24 0x00001E = some (.serial ⟨0x1E, 0, 0, []⟩)
    ∧ decodeTableWord 8 3 = some (.csrRead 0) := by decide +kernel

/-! ## One step -/

/-- A slot right after its allocation for `W:000000000001`. -/
def fresh : Slot := { Slot.reset with valid := true, tag := Key.wireless 1 }

/-- That slot with a mapper. -/
def mapped (k : Kind) (am : AxisMode := .full) (pm : PickupMode := .continuous) : Slot :=
  { fresh with mapper := { kind := k, axisMode := am, pickupMode := pm } }

/-- That slot with an open sequence of total `t`, the bytes `p` written. -/
def accum (t : Nat) (p : List Byte) : Slot :=
  { fresh with cstate := .accum, declaredLen := t, receivedLen := p.length, cb := Memory.cells 0 p }

/-- The state after reset with slot 0 = `x`, under `c`. -/
def on (x : Slot) (c : Cfg := refCfg) : State := { State.reset.setSlot 0 x with cfg := c }

/-- A frame of that session. -/
def fr (bytes : List Byte) (openOk : Bool := true) (ready : Bool := true) : Input :=
  .deliver (Key.wireless 1) bytes openOk ready

/-- The state after the step that takes the input. -/
def after (i : Input) (s : State) : State :=
  match step { s with inputs := [i] } with
  | .next t => t
  | _ => s

/-- Code and `info` of the step's record. -/
def res (s : State) : Option (Code × Nat) := s.result.map fun r => (r.code, r.info.toNat)

/-- The `warn` bits of the step's record. -/
def warn (s : State) : Option Nat := s.result.map fun r => r.warn.toNat

/-- Slot 0. -/
def s0 (s : State) : Slot := s.slot 0

/-- HDR-7, HDR-9, CHK-5: an unchunked frame becomes a message; a trailing byte is flagged. -/
theorem test_msg : res (after (fr [1, 0, 5, 0]) State.reset) = some (.okIgnored, 0)
    ∧ warn (after (fr [1, 0, 7, 2, 0xAA, 0xBB, 0xCC]) State.reset) = some 0x20 := by decide +kernel
/-- DDP-4: a duplicate; and the wraparound from 255 to 0 is not one. -/
theorem test_msg_duplicate :
    res (after (fr [1, 0, 0xFF, 0]) (after (fr [1, 0, 0xFF, 0]) State.reset)) = some (.okDuplicate, 0xFF01)
    ∧ res (after (fr [1, 0, 0, 0]) (after (fr [1, 0, 0xFF, 0]) State.reset)) = some (.okIgnored, 0) := by decide +kernel
/-- CHK-18. -/
theorem test_chkNop : res (after (fr [0x1E, 0x80, 1, 0, 0]) (on (accum 8 [1, 2, 3, 4]))) = some (.okNoopChunk, 0)
    ∧ (s0 (after (fr [0x1E, 0x80, 1, 0, 0]) (on (accum 8 [1, 2, 3, 4])))).receivedLen = 4 := by decide +kernel
/-- CHK-10, CHK-14, CHK-28. -/
theorem test_chkS : res (after (fr [0x1E, 0xC0, 1, 4, 8, 1, 2, 3, 4]) (on fresh)) = some (.pending, 4)
    ∧ res (after (fr [0x1E, 0xC0, 1, 0, 0x81, 0x20]) (on fresh)) = some (.invChunkCapacity, 0x1001)
    ∧ res (after (fr [0x1E, 0xC0, 1, 4, 10, 1, 2, 3, 4]) (on (accum 8 [1, 2, 3, 4]))) = some (.invChunkRestart, 10) := by
  decide +kernel
/-- CHK-25 and CHK-24: the message the terminator hands off is `SERIAL`'s; an early terminator. -/
theorem test_chkE :
    res (after (fr [0x1E, 0x80, 1, 0, 8]) (on (accum 8 [1, 2, 3, 4, 5, 6, 7, 8]))) = some (.okIgnored, 0)
    ∧ Memory.read (s0 (after (fr [0x1E, 0x80, 9, 0, 8]) (on (accum 8 [1, 2, 3, 4, 5, 6, 7, 8])))).seqTab 0x1E = some 9
    ∧ res (after (fr [0x1E, 0x80, 1, 0, 8]) (on (accum 8 [1, 2, 3, 4]))) = some (.invChunkOrder, 8) := by decide +kernel
/-- CHK-19, CHK-21, CHK-23. -/
theorem test_chkD :
    Memory.read (s0 (after (fr [0x1E, 0x80, 1, 4, 4, 5, 6, 7, 8]) (on (accum 8 [1, 2, 3, 4])))).cb 7 = some 8
    ∧ res (after (fr [0x1E, 0x80, 1, 3, 6, 6, 7, 8]) (on (accum 8 [1, 2, 3, 4]))) = some (.invChunkOrder, 6)
    ∧ res (after (fr [0x1E, 0x80, 1, 5, 4, 5, 6, 7, 8, 9]) (on (accum 8 [1, 2, 3, 4]))) = some (.invChunkBounds, 9) := by
  decide +kernel
/-- ARR-1, ARR-2. -/
theorem test_arrival :
    res (after (fr ([2, 0, 7, 11] ++ List.replicate 11 0)) (on fresh)) = some (.invArrivalShort, 11)
    ∧ res (after (fr [2, 0, 0x41, 12, 0, 0, 0, 0, 0, 0, 0, 0, 0x38, 0x07, 0x61, 0x41]) (on fresh))
        = some (.okArrival, 0x41610738) := by decide +kernel
/-- IGN-1, IGN-2, IGN-3. -/
theorem test_ignored : res (after (fr [1, 0x20, 1, 2, 0xAA, 0xBB]) (on fresh)) = some (.okIgnored, 0)
    ∧ res (after (fr [6, 0x30, 1, 0]) (on fresh)) = some (.okIgnored, 0)
    ∧ res (after (fr [0x1E, 0, 1, 3, 1, 2, 3]) (on fresh)) = some (.okIgnored, 0) := by decide +kernel

/-- `DESC1(G)` of 95_test_vectors.md section 0. -/
def desc1 (g : List Byte) : List Byte :=
  [0x10, 0, 0, 0, 0, 0, 0, 0, 0, 0, 0, 0, 0, 0, 0x31, 0] ++ [0, 0, 0, 0, 0, 0, 0, 0, 0, 0, 0, 0, 0x10, 0, 0, 0, 1] ++ g

/-- DSC-18, DSC-20: the identifier's entry. -/
theorem test_descriptor :
    res (after (fr ([4, 0, 0, 49] ++ desc1 (placeholderGuid 0xE0))) (on fresh)) = some (.okDescriptor, 0x01010001)
    ∧ (s0 (after (fr ([4, 0, 0, 49] ++ desc1 (placeholderGuid 0xE0))) (on fresh))).mapper = ⟨.guitar, .half, .plateau⟩
    ∧ res (after (fr ([4, 0, 0, 49] ++ desc1 (placeholderGuid 0xC0))) (on fresh)) = some (.okDescriptor, 0x03010001) := by
  decide +kernel
/-- DSC-3, DSC-7. -/
theorem test_descriptor_bad :
    res (after (fr ([4, 0, 0, 10] ++ List.replicate 10 0)) (on fresh)) = some (.invDescHeader, 0x0A00)
    ∧ warn (after (fr ([4, 0, 0, 16, 0x10, 0] ++ List.replicate 12 0 ++ [0x10, 0])) (on fresh)) = some 0x0C := by
  decide +kernel
/-- FWD-1, FWD-3, FWD-4. -/
theorem test_forward :
    (after (fr [0x33, 0, 1, 0]) (on fresh)).events = [.sinkOpen 0 none .fallback]
    ∧ warn (after (fr [0x33, 0, 1, 0]) (on fresh)) = some 0x10
    ∧ res (after (fr [0x20, 0, 1, 6, 0, 0, 0, 0, 0, 0] false) (on fresh)) = some (.unsNoSink, 0)
    ∧ res (after (fr [0x20, 0, 1, 6, 0, 0, 0, 0, 0, 0]) (on fresh)) = some (.okReport, 2)
    ∧ res (after (fr [0x21, 0, 1, 0] true false) (on (mapped .sixFret))) = some (.unsNotReady, 0)
    ∧ res (after (fr [0x07, 0, 1, 0]) (on fresh)) = some (.okIgnored, 0) := by decide +kernel
/-- GTR-5: the example of rule R250. -/
theorem test_guitar : let o := (s0 (after (fr [0x20, 0, 1, 10, 4, 0x41, 0, 0x80, 0x30, 0, 5, 0, 0, 0]) (on (mapped .guitar)))).out
    o.buttonsRaw = 0x4104 ∧ o.menu = true ∧ o.dpadUp = true ∧ o.lowerFlag = true ∧ o.green = true ∧ o.yellow = true
      ∧ o.red = false ∧ o.tilt.toInt = -32768 ∧ o.whammy.toInt = 128 ∧ o.pickup.toInt = -20432 := by decide +kernel
/-- ALT-6: the variants Half and Plateau. -/
theorem test_guitar_variants :
    let o := (s0 (after (fr [0x20, 0, 1, 10, 0, 0, 0x80, 0x7F, 0x3F, 0, 0, 0, 0, 0]) (on (mapped .guitar .half .plateau)))).out
    o.tilt.toInt = 16448 ∧ o.whammy.toInt = 16319 ∧ o.pickup.toInt = 16384 := by decide +kernel
/-- DRM-2: the example of rule R260. -/
theorem test_drums :
    let x := s0 (after (fr [0x20, 0, 1, 6, 0, 0, 0x0F, 0, 0x70, 0]) (on (mapped .drums)))
    x.out.pad = ⟨0, 15, 0, 0⟩ ∧ x.out.cym = ⟨0, 7, 0, 0⟩ ∧ x.out.yellow = true ∧ x.out.blue = false
      ∧ x.out.padAxis.yellow.toInt = 0 ∧ x.out.cymAxis.yellow.toInt = 17476 ∧ x.out.cymAxis.red.toInt = 32767
      ∧ x.out.dpadUp = true ∧ x.prevMask = 1 ∧ x.latched = 1 := by decide +kernel
/-- The row (3, B), m = Y of the d-pad's transition table. -/
theorem test_drums_latch :
    let x := s0 (after (fr [0x20, 0, 1, 6, 0, 0, 0, 0, 0x30, 0]) (on { mapped .drums with prevMask := 3, latched := 2 }))
    x.prevMask = 1 ∧ x.latched = 1 ∧ x.out.dpadUp = true ∧ x.out.dpadDown = false := by decide +kernel
/-- GHL-1, GHL-2. -/
theorem test_sixFret :
    let o := (s0 (after (fr [0x21, 0, 1, 8, 9, 1, 0, 0, 0, 0, 0xC0, 0]) (on (mapped .sixFret)))).out
    o.fret6 = [true, false, false, true, false, false] ∧ o.menu = true ∧ o.strum.toInt = -32768 ∧ o.dpadUp = true
      ∧ o.whammy.toInt = 16513 := by decide +kernel
/-- PAD-1. -/
theorem test_gamepad :
    let t := after (fr [0x20, 0, 1, 14, 4, 0, 0xFF, 3, 0, 0, 0, 0x80, 0xFF, 0x7F, 0, 0, 1, 0]) (on (mapped .gamepad) padCfg)
    res t = some (.okReport, 4) ∧ (s0 t).out.lt = 1023 ∧ (s0 t).out.lx.toInt = -32768 ∧ (s0 t).out.ly.toInt = 32767
      ∧ (s0 t).out.ry = 1 := by decide +kernel
/-- FB-1, FB-3. -/
theorem test_fallback :
    res (after (fr [0x20, 0, 1, 10, 0, 0, 0, 0, 0, 1, 0, 0, 0, 0]) (on (mapped .fallback))) = some (.okReport, 1)
    ∧ res (after (fr ([0x20, 0, 1, 14] ++ List.replicate 14 0)) (on (mapped .fallback))) = some (.okIgnored, 0) := by
  decide +kernel
/-- KEY-1, KEY-4, GTR-10. -/
theorem test_guide :
    (s0 (after (fr [7, 0, 1, 2, 1, 0x5B]) (on (mapped .guitar) keyCfg))).out.guide = true
    ∧ res (after (fr [7, 0, 1, 2, 1, 0x41]) (on (mapped .guitar) keyCfg)) = some (.okIgnored, 0)
    ∧ res (after (fr [7, 0, 1, 2, 1, 0x5B]) (on (mapped .guitar))) = some (.okIgnored, 0) := by decide +kernel

/-- A LegacyDemux session whose children are listed. -/
def lgySlot (l : List Child) : Slot := { mapped .legacyDemux with children := l }

/-- A child of kind `k`. -/
def kid (k : Kind) : Child := { Child.reset with kind := k }

/-- LGY-1, LGY-4, LGY-5. -/
theorem test_lgyConnect :
    let s := on (lgySlot [kid .none, kid .none, kid .none, kid .none]) lgyCfg
    res (after (fr [0x50, 0, 1, 2, 2, 0x0A]) s) = some (.okLgy, 0x102)
    ∧ (after (fr [0x50, 0, 1, 2, 2, 0x0A]) s).events = [.sinkOpen 0 (some 2) .guitar]
    ∧ warn (after (fr [0x50, 0, 1, 2, 1, 0x77]) s) = some 0x80
    ∧ res (after (fr [0x50, 0, 1, 2, 7, 0x0A]) s) = some (.okIgnored, 0) := by decide +kernel
/-- LGY-6, LGY-7. -/
theorem test_lgyDisconnect :
    let s := on (lgySlot [kid .none, kid .none, kid .guitar, kid .none]) lgyCfg
    (after (fr [0x51, 0, 1, 1, 2]) s).events = [.sinkClose 0 (some 2)]
    ∧ res (after (fr [0x51, 0, 1, 1, 1]) s) = some (.okLgy, 1) ∧ (after (fr [0x51, 0, 1, 1, 1]) s).events = [] := by
  decide +kernel
/-- LGY-2, LGY-3. -/
theorem test_lgyInput :
    let s := on (lgySlot [kid .none, kid .none, kid .guitar, kid .none]) lgyCfg
    res (after (fr [0x52, 0, 1, 11, 2, 4, 0x41, 0, 0x80, 0x30, 0, 5, 0, 0, 0]) s) = some (.okReport, 0x201)
    ∧ res (after (fr [0x52, 0, 1, 11, 1, 4, 0x41, 0, 0x80, 0x30, 0, 5, 0, 0, 0]) s) = some (.okIgnored, 0) := by
  decide +kernel
/-- GTR-6, GTR-8, GTR-9. -/
theorem test_noop :
    res (after (fr [0x20, 0, 1, 6, 0, 0, 0, 0, 0, 0]) (on (mapped .guitar))) = some (.okIgnored, 0)
    ∧ res (after (fr [0x33, 0, 1, 0]) (on (mapped .guitar))) = some (.okIgnored, 0) := by decide +kernel

/-- Rule R342: every session is freed, its handle closed. -/
theorem test_reset :
    let t := after (.control 0 0 0 0) { on (mapped .guitar) with evflags := 0x1FF }
    res t = some (.okControl, 0) ∧ t.events = [.sinkClose 0 none] ∧ sessValid t.slots = 0 ∧ t.evflags = 0 := by
  decide +kernel
/-- Rule R343 (and table ROUTE, step 10): the slot is freed; an unknown key changes nothing. -/
theorem test_close :
    sessValid (after (.control 1 (Key.wireless 1) 0 0) (on (mapped .guitar))).slots = 0
    ∧ res (after (.control 1 (Key.wireless 1) 0 0) (on (mapped .guitar))) = some (.okControl, 1)
    ∧ res (after (.control 1 (Key.direct 1) 0 0) (on (mapped .guitar))) = some (.okControl, 0) := by decide +kernel
/-- Rule R344. -/
theorem test_sinkLost :
    let t := after (.control 2 (Key.wireless 1) 0 0) (on (mapped .guitar))
    res t = some (.disconnected, 0) ∧ (s0 t).valid = true ∧ (s0 t).mapper.kind = .none ∧ t.evflags = 0x100
      ∧ t.events = [.sinkClose 0 none] := by decide +kernel
/-- Rule R346: `LAST_*` stay, an unassigned register reads 0. -/
theorem test_csrRead :
    (after (.control 3 0 4 0) (on fresh)).readData = some 1 ∧ (after (.control 3 0 4 0) (on fresh)).lastCode = 0
    ∧ (after (.control 3 0 7 0) (on fresh)).readData = some 0 := by decide +kernel
/-- Rule R345. -/
theorem test_csrW1c :
    (after (.control 4 0 0 0x0003) { on fresh with evflags := 0x0107 }).evflags = 0x0104
    ∧ (after (.control 4 0 1 0x0003) { on fresh with evflags := 0x0107 }).evflags = 0x0107 := by decide +kernel
/-- CTL-5: a record, and nothing changes, `LAST_*` and `EVFLAGS` included. -/
theorem test_unassigned_control :
    let s := { on (mapped .guitar) with evflags := 0x107, lastCode := 0x28, lastInfo := 8, lastSlot := 0x80 }
    let t := after (.control 7 0 0 0) s
    res t = some (.okControl, 0xFFFFFFFF) ∧ { t with result := none } = s := by decide +kernel
/-- ROUTE steps 8, 9 and HDR-21: a full table; an oversize frame allocates nothing. -/
theorem test_route :
    res (after (fr [1, 0, 0, 0]) { on fresh with slots := List.replicate 8 { fresh with tag := 0 } }) = some (.unsNoSlot, 0)
    ∧ sessValid (after (.deliver 9 [1, 0, 0, 0] true true) (on fresh)).slots = 3
    ∧ sessValid (after (fr (List.replicate 4097 0)) State.reset).slots = 0 := by decide +kernel
/-- Rules R4, R38, R46: the reset state of a block with three slots and a legacy demultiplexer for four users. -/
theorem test_resetFor :
    let s := State.resetFor { lgyCfg with nSess := 3 }
    s.slots.map (fun x => (x.valid, x.children.length)) = [(false, 4), (false, 4), (false, 4)] ∧ s.cfg.hasLegacy = true
      ∧ State.reset.slots.map (fun x => x.children.length) = List.replicate 8 0 := by decide +kernel
/-- A table word stored by `withFetchWord` is what the next step runs. -/
theorem test_withFetchWord :
    res (match step (State.reset.withFetchWord 8 0x1E) with | .next t => t | _ => State.reset) = some (.okIgnored, 0)
    ∧ (match step (State.reset.withFetchWord 8 4) with | .next t => t | _ => State.reset).lastCode = 8 := by
  decide +kernel

/-! ## Witnesses: concrete states and operands that meet the hypotheses of the statements, clause by clause -/

/-- One well-formed instruction of every constructor, each in a context that selects it. -/
def everyRow : List (Ctx × Instr) :=
  [(cx .none, .msg ⟨0x20, 0, 5⟩ [0xAA]), (cx .none, .chkNop ⟨4, 0x40, 9⟩), (cx .none, .chkS ⟨4, 0xC0, 1⟩ (2 ^ 28 - 1) []),
   (openCx, .chkE ⟨4, 0x80, 3⟩ 8), (openCx, .chkD ⟨4, 0x80, 3⟩ 8 [1]), (cx .none, .ack (zeros 1 0)),
   (cx .none, .arrival (zeros 2 12)), (cx .none, .descriptor (zeros 4 16)), (cx .none, .auth (zeros 6 0)),
   (cx .none, .keystroke (zeros 7 2)), (cx .none, .serial (zeros 0x1E 1)), (cx .none, .input (zeros 0x20 10)),
   (cx .none, .ghlInput (zeros 0x21 8)), (cx .none, .other (zeros 0xFF 0)), (cx .guitar, .inputGtr (zeros 0x20 10)),
   (cx .drums, .inputDrm (zeros 0x20 6)), (cx .sixFret, .ghlInputGhl (zeros 0x21 8)),
   (⟨padCfg, none, .gamepad⟩, .inputPad (zeros 0x20 14)), (cx .fallback, .inputFb (zeros 0x20 10)),
   (cx .drums, .keystrokeGuide (zeros 7 2)), (lgyCx, .lgyConnect (zeros 0x50 2)), (lgyCx, .lgyDisconnect (zeros 0x51 1)),
   (lgyCx, .lgyInput (zeros 0x52 11)), (cx .guitar, .noop (zeros 0x20 9)), (cx .none, .reset), (cx .none, .close 5),
   (cx .none, .sinkLost 5), (cx .none, .csrRead 4), (cx .none, .csrW1c 0 0xFFFF)]

theorem witness_DecodeEncodeRoundTrip :
    everyRow.all (fun t => t.1.cfg.wf && t.2.wf t.1) = true := by decide +kernel

theorem witness_ReadLebReadsEveryEncoding :
    validLeb [0x80, 0x80, 0x80, 0x01] = true ∧ [0x80, 0x80, 0x80, (0x01 : Byte)].length ≤ refCfg.varintMaxBytes
    ∧ validLeb [0x80, 0x00] = true := by decide

theorem witness_LebFieldRejections :
    (∀ i, i < refCfg.varintMaxBytes → ∃ b, [0x80, 0x80, 0x80, (0x80 : Byte)][0 + i]? = some b ∧ b.getLsbD 7 = true)
    ∧ (∃ k, k = 3 ∧ k < refCfg.varintMaxBytes ∧ [0x80, 0x80, (0x80 : Byte)].length = 0 + k
        ∧ ∀ i, i < k → ∃ b, [0x80, 0x80, (0x80 : Byte)][0 + i]? = some b ∧ b.getLsbD 7 = true) := by
  refine ⟨fun i hi => ?_, 3, rfl, by decide, rfl, fun i hi => ?_⟩
  · match i, hi with
    | 0, _ | 1, _ | 2, _ | 3, _ => exact ⟨_, rfl, by decide⟩
  · match i, hi with
    | 0, _ | 1, _ | 2, _ => exact ⟨_, rfl, by decide⟩

theorem witness_FrameParsesIntoItsParts :
    refCfg.wf = true ∧ validLeb [0x81, 0x00] = true ∧ lebValue 0 [0x81, 0x00] = [(0xAA : Byte)].length
    ∧ refCfg.hdr.chunked 0x00 = false ∧ refCfg.hdr.chunked 0x80 = true ∧ validLeb [0x80, 0x80, 0x80, 0x00] = true
    ∧ [0x80, 0x80, 0x80, (0x00 : Byte)].length ≤ refCfg.varintMaxBytes := by decide +kernel

/-- A state with one input waiting. -/
def waiting (i : Input) (s : State) : State := { s with inputs := [i] }

theorem witness_StepRunsDecodedFrame : ∃ s1 i,
    (waiting (fr [1, 0, 5, 0]) (on fresh)).inputs = [.deliver (Key.wireless 1) [1, 0, 5, 0] true true]
    ∧ [(1 : Byte), 0, 5, 0].length ≤ refCfg.frameMax
    ∧ route (Key.wireless 1) (beginFrame (Key.wireless 1) true true (clearPorts { on fresh with inputs := [] })) = some s1
    ∧ decode s1.ctx .framing (.frame [1, 0, 5, 0]) = .ok i :=
  ⟨_, .msg ⟨1, 0, 5⟩ [], rfl, by decide, rfl, by rfl⟩

theorem witness_StepRunsDecodedFrame_stages :
    (setStage (.message (zeros 1 0)) (on fresh)).work.stage = .message (zeros 1 0)
    ∧ (setStage (.report (zeros 0x20 10)) (on fresh)).work.stage = .report (zeros 0x20 10)
    ∧ (on fresh).work.stage = .done := ⟨rfl, rfl, rfl⟩

theorem witness_StepRunsControlOperation :
    (waiting (.control 1 5 0 0) (on fresh)).inputs = [.control 1 5 0 0]
    ∧ decode (cx .none) .control (.control 1 5 0 0) = .ok (.close 5) := ⟨rfl, rfl⟩

theorem witness_UnassignedControlOperationIgnored :
    (waiting (.control 5 0 0 0) (on fresh)).inputs = [.control 5 0 0 0] ∧ 4 < 5 := ⟨rfl, by decide⟩

theorem witness_StepIsTotalWithOneRecord :
    (waiting (fr []) (on fresh)).inputs = [fr []] ∧ (fr []).keepsLast = false
    ∧ (waiting (.control 5 0 0 0) (on fresh)).inputs = [.control 5 0 0 0] ∧ (Input.control 5 0 0 0).keepsLast = true
    ∧ (Input.control 3 0 4 0).keepsLast = true ∧ (Input.control 4 0 4 0).keepsLast = false ∧ State.reset.inputs = [] :=
  ⟨rfl, rfl, rfl, rfl, rfl, rfl, rfl⟩

/-- A state of the invariant with a Guitar session whose chunk sequence is open and whose descriptor is stored. -/
def invState : State :=
  on { accum 8 [1, 2, 3, 4] with
    mapper := { kind := .guitar, axisMode := .full, pickupMode := .continuous }
    arrivalSeen := true, vid := 0x0738, descSeen := true, guids := [placeholderGuid 0xA0], seqTab := [(4, 0), (0x1E, 3)] }

theorem witness_StepKeepsInvariant : (waiting (fr [1, 0, 5, 0]) invState).Inv ∧
    ∃ t, step (waiting (fr [1, 0, 5, 0]) invState) = .next t := by
  refine ⟨⟨by decide +kernel, by decide +kernel, by decide +kernel, ?_, by decide +kernel, by decide +kernel, rfl⟩, _, rfl⟩
  intro x hx hv
  have h : x = invState.slots[0] := by
    revert hv
    simp only [waiting, invState, on, State.setSlot, State.reset, State.resetFor, refCfg, List.replicate, List.set_cons_zero, List.mem_cons,
      List.not_mem_nil, or_false] at hx ⊢
    rcases hx with rfl | rfl | rfl | rfl | rfl | rfl | rfl | rfl <;> intro hv
    · rfl
    all_goals exact absurd hv (by decide)
  subst h
  refine ⟨fun _ => ⟨by decide, by decide, ?_⟩, by decide +kernel, by decide +kernel⟩
  intro a ha
  have ha' : a < 4 := ha
  match a, ha' with
  | 0, _ | 1, _ | 2, _ | 3, _ => exact fun h => nomatch h

theorem witness_ResetHasInvariant : refCfg.wf = true ∧ lgyCfg.wf = true ∧ { refCfg with nSess := 1 }.wf = true := by
  decide +kernel

theorem witness_ResetValues : ∃ s, s = State.resetFor lgyCfg ∧ lgyCfg.lgyUsers = 4 := ⟨_, rfl, rfl⟩

theorem witness_ConfigurationNeverChanges : ∃ t, step (waiting (.control 0 0 0 0) (on fresh)) = .next t := ⟨_, rfl⟩

theorem witness_FrameTouchesOnlyItsSlot :
    (waiting (fr [1, 0, 5, 0]) (on fresh)).inputs = [.deliver (Key.wireless 1) [1, 0, 5, 0] true true]
    ∧ ∃ t, step (waiting (fr [1, 0, 5, 0]) (on fresh)) = .next t := ⟨rfl, _, rfl⟩

theorem witness_SessionsDoNotInterfere :
    let s := waiting (fr [1, 0, 5, 0]) (on fresh)
    let s' := waiting (fr [1, 0, 5, 0]) { (on fresh).setSlot 3 { fresh with tag := 7 } with evflags := 0x1FF }
    s.cfg = s'.cfg ∧ findKey (Key.wireless 1) s.slots = some 0 ∧ findKey (Key.wireless 1) s'.slots = some 0
    ∧ s.slot 0 = s'.slot 0 ∧ s.slots ≠ s'.slots ∧ ∃ t t', step s = .next t ∧ step s' = .next t' :=
  ⟨rfl, rfl, rfl, rfl, by decide +kernel, _, _, rfl, rfl⟩

/-- A key without a session: both blocks allocate slot 1, which an earlier session has left in another state. -/
theorem witness_SessionsDoNotInterfere_allocates :
    let s := waiting (fr [1, 0, 5, 0]) (on { fresh with tag := 7 })
    let s' := waiting (fr [1, 0, 5, 0]) ((on { fresh with tag := 8 }).setSlot 1 { mapped .guitar with valid := false })
    s.cfg = s'.cfg ∧ findKey (Key.wireless 1) s.slots = none ∧ findKey (Key.wireless 1) s'.slots = none
    ∧ findFree s.slots = some 1 ∧ findFree s'.slots = some 1 ∧ s.draws = s'.draws
    ∧ (s.slot 1).cb = (s'.slot 1).cb ∧ (s.slot 1).children = (s'.slot 1).children ∧ s.slot 1 ≠ s'.slot 1
    ∧ [(1 : Byte), 0, 5, 0].length ≤ s.cfg.frameMax ∧ ∃ t t', step s = .next t ∧ step s' = .next t' :=
  ⟨rfl, rfl, rfl, rfl, rfl, rfl, rfl, rfl, by decide +kernel, by decide, _, _, rfl, rfl⟩

theorem witness_FramePortReach :
    ((waiting (fr [1, 0, 5, 0]) (on fresh)).slot 0).valid = true
    ∧ ∃ t, step (waiting (fr [1, 0, 5, 0]) (on fresh)) = .next t := ⟨rfl, _, rfl⟩

theorem witness_OnceOnlyLatches :
    let x := { mapped .fallback with arrivalSeen := true, descSeen := true, fbWarned := true }
    ((waiting (fr [2, 0, 5, 0]) (on x)).slot 0).valid = true
    ∧ ((waiting (fr [2, 0, 5, 0]) (on x)).slot 0).arrivalSeen = true
    ∧ ((waiting (fr [2, 0, 5, 0]) (on x)).slot 0).descSeen = true
    ∧ ((waiting (fr [2, 0, 5, 0]) (on x)).slot 0).fbWarned = true
    ∧ ((waiting (fr [2, 0, 5, 0]) (on x)).slot 0).mapper.kind ≠ .none
    ∧ ∃ t, step (waiting (fr [2, 0, 5, 0]) (on x)) = .next t := ⟨rfl, rfl, rfl, rfl, by decide, _, rfl⟩

/-- CHK-30 and CHK-31: an unchunked frame, and a chunked frame that the payload extraction rejects. -/
theorem witness_OpenSequenceSurvivesOtherFrames :
    (∀ p, parseFrame refCfg [1, 0, 1, 0] = .ok p → p.idx = none)
    ∧ (∀ p, parseFrame refCfg [0x1E, 0x80, 1, 3, 4, 5, 6] = .ok p → p.idx = none)
    ∧ ((on (accum 8 [1, 2, 3, 4])).slot 0).valid = true
    ∧ (∃ t, step (waiting (fr [1, 0, 1, 0]) (on (accum 8 [1, 2, 3, 4]))) = .next t) := by
  refine ⟨fun p h => ?_, fun p h => ?_, rfl, _, rfl⟩
  · have e : parseFrame refCfg [1, 0, 1, 0] = .ok ⟨⟨1, 0, 1⟩, 0, none, 4, [], false⟩ := by decide +kernel
    rw [e] at h; cases h; rfl
  · have e : parseFrame refCfg [0x1E, 0x80, 1, 3, 4, 5, 6] = .bad (some ⟨0x1E, 0x80, 1⟩) (.payloadShort 2) := by
      decide +kernel
    rw [e] at h; cases h

theorem witness_FinishAndRaiseEndTheStep :
    2 ^ 32 - 1 < 2 ^ 32 ∧ Code.cls .invHdrShort = .invalid ∧ Code.cls .unsNoSink = .unsupported
    ∧ Code.cls .pending = .pending := by decide

theorem witness_FrameTurnedAwayBeforeItsHeader :
    refCfg.frameMax < (List.replicate 4097 (0 : Byte)).length ∧ (List.replicate 4096 (0 : Byte)).length ≤ refCfg.frameMax
    ∧ ∀ x ∈ List.replicate 8 { fresh with tag := 0 }, x.valid = true ∧ x.tag ≠ Key.wireless 1 := by
  refine ⟨by rw [List.length_replicate]; decide, by rw [List.length_replicate]; decide, fun x hx => ?_⟩
  obtain rfl := List.eq_of_mem_replicate hx
  exact ⟨rfl, by decide⟩

theorem witness_RouteSelectsOrAllocates :
    findKey (Key.wireless 1) (on fresh).slots = some 0
    ∧ findKey 9 (on fresh).slots = none ∧ findFree (on fresh).slots = some 1
    ∧ findKey 9 (List.replicate 8 fresh) = none ∧ (∀ x ∈ List.replicate 8 fresh, x.valid = true) := by
  refine ⟨rfl, rfl, rfl, rfl, fun x hx => ?_⟩
  obtain rfl := List.eq_of_mem_replicate hx
  rfl

/-- Each clause on what is rejected: a field cut off, an unended field, two well-formed fields with one byte too few. -/
theorem witness_MalformedFrameReportsItsCause_rejected :
    [(1 : Byte), 0].length < 3 ∧ refCfg.wf = true ∧ validLeb [0x82, 0x00] = true
    ∧ [0x82, (0x00 : Byte)].length ≤ refCfg.varintMaxBytes ∧ unendedLeb [0x80, 0xFF, 0x80] = true
    ∧ [0x80, 0xFF, (0x80 : Byte)].length < refCfg.varintMaxBytes ∧ unendedLeb [] = true
    ∧ unendedLeb [0x80, 0xFF, 0x80, 0x80] = true ∧ [0x80, 0xFF, 0x80, (0x80 : Byte)].length = refCfg.varintMaxBytes
    ∧ [(0xAA : Byte)].length < lebValue 0 [0x82, 0x00] ∧ refCfg.hdr.chunked 0x80 = true
    ∧ refCfg.hdr.chunked 0x3F = false := by decide +kernel

/-- Each of the four causes, on the shortest frame that has it. -/
theorem witness_MalformedFrameReportsItsCause :
    (∃ s1, route (Key.wireless 1) (beginFrame (Key.wireless 1) true true (clearPorts { on fresh with inputs := [] })) = some s1)
    ∧ parseFrame refCfg [] = .bad none (.hdrShort 0)
    ∧ parseFrame refCfg [0x20, 0x00, 0x05] = .bad (some ⟨0x20, 0, 5⟩) (.varintTrunc 0 3)
    ∧ parseFrame refCfg [0x20, 0x00, 0x05, 0x80, 0x80, 0x80, 0x80] = .bad (some ⟨0x20, 0, 5⟩) (.varintLong 0 7)
    ∧ parseFrame refCfg [0x01, 0x00, 0x08, 0x01] = .bad (some ⟨1, 0, 8⟩) (.payloadShort 0) :=
  ⟨⟨_, rfl⟩, by decide +kernel, by decide +kernel, by decide +kernel, by decide +kernel⟩

/-- A slot selected for the rows: slot 0 holds `x`. -/
def sel (x : Slot) (c : Cfg := refCfg) (openOk : Bool := true) (ready : Bool := true) : State :=
  select 0 (beginFrame (Key.wireless 1) openOk ready (on x c))

theorem sel_onSlot (x : Slot) (c : Cfg) (o r : Bool) : OnSlot 0 (sel x c o r) := ⟨rfl, by show 0 < 8; decide⟩

theorem witness_MessagePassesOrIsDuplicate :
    (OnSlot 0 (sel { fresh with seqTab := [(1, 255)] }) ∧ Memory.read ((sel { fresh with seqTab := [(1, 255)] }).slot 0).seqTab 1 = some 255)
    ∧ OnSlot 0 (sel fresh) ∧ Memory.read ((sel fresh).slot 0).seqTab 255 ≠ some 0 :=
  ⟨⟨sel_onSlot _ _ _ _, rfl⟩, sel_onSlot _ _ _ _, by decide⟩

theorem witness_SecondEqualMessageIsDuplicate :
    let s : State := { on fresh with inputs := [fr [1, 0, 5, 0], fr [1, 0x20, 5, 1, 0xBB]] }
    ∃ t u r, parseFrame s.cfg [1, 0, 5, 0] = .ok ⟨⟨1, 0, 5⟩, 0, none, 4, [], false⟩
      ∧ parseFrame s.cfg [1, 0x20, 5, 1, 0xBB] = .ok ⟨⟨1, 0x20, 5⟩, 1, none, 4, [0xBB], false⟩
      ∧ [1, 0x20, 5, 1, (0xBB : Byte)].length ≤ s.cfg.frameMax
      ∧ step s = .next t ∧ t.result = some r ∧ r.slot = some 0 ∧ step t = .next u :=
  ⟨_, _, _, by decide +kernel, by decide +kernel, by decide, rfl, rfl, rfl, rfl⟩

theorem witness_NoopChunkChangesNothing :
    (⟨⟨4, 0x80, 1⟩, 0, some 0, 5, [], false⟩ : Parsed).idx = some 0 ∧ (⟨⟨4, 0x80, 1⟩, 0, some 0, 5, [], false⟩ : Parsed).len = 0 :=
  ⟨rfl, rfl⟩

theorem witness_StartPacketOpensOrRejects :
    (OnSlot 0 (sel fresh) ∧ (fresh.cstate = .accum → fresh.declaredLen = 4096) ∧ 4096 ≤ refCfg.chunkBufBytes
      ∧ (List.replicate 4096 (1 : Byte)).length ≤ 4096)
    ∧ ((accum 8 [1]).cstate = .accum ∧ (accum 8 [1]).declaredLen ≠ 9)
    ∧ ((fresh.cstate = .accum → fresh.declaredLen = 4097) ∧ refCfg.chunkBufBytes < 4097)
    ∧ ((fresh.cstate = .accum → fresh.declaredLen = 0) ∧ 0 ≤ refCfg.chunkBufBytes ∧ 0 < [(1 : Byte)].length) := by
  refine ⟨⟨sel_onSlot _ _ _ _, by decide, by decide, by rw [List.length_replicate]⟩, by decide, by decide, by decide⟩

theorem witness_ContinuationPacketAppends :
    OnSlot 0 (sel (accum 8 [1, 2, 3, 4])) ∧ ((sel (accum 8 [1, 2, 3, 4])).slot 0).cstate = .accum
    ∧ 4 = ((sel (accum 8 [1, 2, 3, 4])).slot 0).receivedLen
    ∧ 4 + [5, 6, 7, (8 : Byte)].length ≤ ((sel (accum 8 [1, 2, 3, 4])).slot 0).declaredLen :=
  ⟨sel_onSlot _ _ _ _, rfl, rfl, by decide⟩

/-- CHK-15, CHK-21, CHK-23, CHK-16, CHK-24. -/
theorem witness_ContinuationPacketRejected :
    OnSlot 0 (sel fresh) ∧ ((sel fresh).slot 0).cstate = .idle
    ∧ ((sel (accum 8 [1, 2, 3, 4])).slot 0).cstate = .accum ∧ 6 ≠ ((sel (accum 8 [1, 2, 3, 4])).slot 0).receivedLen
    ∧ 4 = ((sel (accum 8 [1, 2, 3, 4])).slot 0).receivedLen
    ∧ ((sel (accum 8 [1, 2, 3, 4])).slot 0).declaredLen < 4 + [5, 6, 7, 8, (9 : Byte)].length
    ∧ 8 = ((sel (accum 8 [1, 2, 3, 4])).slot 0).declaredLen ∧ ((sel (accum 8 [1, 2, 3, 4])).slot 0).receivedLen ≠ 8 :=
  ⟨sel_onSlot _ _ _ _, rfl, rfl, by decide, rfl, by decide, rfl, by decide⟩

/-- CHK-25 with a new sequence, and with the sequence DDP remembers. -/
theorem witness_TerminatorHandsOffTheMessage :
    let x := accum 2 [1, 2]
    OnSlot 0 (sel x) ∧ ((sel x).slot 0).cstate = .accum ∧ 2 = ((sel x).slot 0).declaredLen
    ∧ ((sel x).slot 0).receivedLen = 2 ∧ (∀ a, a < 2 → Memory.read ((sel x).slot 0).cb a ≠ none)
    ∧ Memory.read ((sel x).slot 0).seqTab 0x1E ≠ some 3
    ∧ Memory.read ((sel { x with seqTab := [(0x1E, 3)] }).slot 0).seqTab 0x1E = some 3 :=
  ⟨sel_onSlot _ _ _ _, rfl, rfl, rfl, by decide +kernel, by decide, rfl⟩

/-- An empty start packet, an empty packet at cursor 0, two packets with bytes. -/
theorem witness_ChunkedMessageReassembles :
    let parts : List (List Byte) := [[], [], [2, 3], [4]]
    let hs := fun (i : Nat) => (⟨0x1E, if i = 0 then 0xE0 else 0xA0, BitVec.ofNat 8 i⟩ : Hdr)
    let s := { on fresh with inputs :=
      (chunkedRows hs [] [[], [2, 3], [4]]).map (fun i => wireInput (Key.wireless 1) true true (encode refCfg i)) }
    OnSlot 0 (sel fresh) ∧ ((sel fresh).slot 0).cstate = .idle ∧ (s.slot 0).cstate = .idle
    ∧ (∀ p, parts.getLast? = some p → p ≠ []) ∧ parts.flatten.length ≤ refCfg.chunkBufBytes
    ∧ Memory.read ((sel fresh).slot 0).seqTab 0x1E ≠ some 4 ∧ Memory.read (s.slot 0).seqTab 0x1E ≠ some 4
    ∧ (∀ i, i < 8 → (0x20#8).getLsbD i
        = ((0xA0#8).getLsbD i && decide (i ≠ refCfg.hdr.flagChunkStart) && decide (i ≠ refCfg.hdr.flagChunk)))
    ∧ refCfg.wf = true ∧ findKey (Key.wireless 1) s.slots = some 0
    ∧ (∀ p ∈ parts, 3 + 2 * refCfg.varintMaxBytes + p.length ≤ refCfg.frameMax)
    ∧ refCfg.hdr.chunkStart (hs 0).flags = true
    ∧ (∀ i, i < 5 → 0 < i → refCfg.hdr.chunked (hs i).flags = true ∧ refCfg.hdr.chunkStart (hs i).flags = false)
    ∧ s.inputs.length = 5 :=
  ⟨sel_onSlot _ _ _ _, rfl, rfl, by intro p h; cases h; decide, by decide, by decide, by decide, by decide,
    by decide +kernel, rfl, by decide, by decide, by decide, rfl⟩

theorem witness_ArrivalStoresIdsOnce :
    OnSlot 0 (sel fresh) ∧ ((sel { fresh with arrivalSeen := true }).slot 0).arrivalSeen = true
    ∧ ((sel fresh).slot 0).arrivalSeen = false ∧ (zeros 2 11).data.length < refCfg.arr.minLen
    ∧ refCfg.arr.minLen ≤ (zeros 2 12).data.length := ⟨sel_onSlot _ _ _ _, rfl, rfl, by decide, by decide⟩

/-- A message that carries `DESC1(G)`. -/
def descMsg (b : Byte) : Message := ⟨4, 0, 0, desc1 (placeholderGuid b)⟩

/-- DSC-18 (one match) and an identifier no entry names (zero matches). -/
theorem witness_DescriptorSelectsMapper :
    OnSlot 0 (sel fresh) ∧ ((sel fresh).slot 0).descSeen = false ∧ ((sel fresh).slot 0).mapper.kind = .none
    ∧ (sel fresh).work.openOk = true
    ∧ dscParse refCfg (descMsg 0xE0).data = .ok [placeholderGuid 0xE0] [] false false
    ∧ refCfg.guidTable.filter (fun e => [placeholderGuid 0xE0].contains e.guid)
        = [⟨placeholderGuid 0xE0, .guitar, .half, .plateau⟩]
    ∧ dscParse refCfg (descMsg 0x11).data = .ok [placeholderGuid 0x11] [] false false
    ∧ (refCfg.guidTable.filter (fun e => [placeholderGuid 0x11].contains e.guid)).length = 0 :=
  ⟨sel_onSlot _ _ _ _, rfl, rfl, rfl, by decide +kernel, by decide +kernel, by decide +kernel, by decide +kernel⟩

theorem witness_DescriptorWithoutSelection :
    OnSlot 0 (sel { fresh with descSeen := true }) ∧ ((sel { fresh with descSeen := true }).slot 0).descSeen = true
    ∧ ((sel fresh).slot 0).descSeen = false ∧ dscParse refCfg (List.replicate 10 0) = .bad 0x0A00
    ∧ dscParse refCfg (descMsg 0xA0).data = .ok [placeholderGuid 0xA0] [] false false
    ∧ ((sel fresh refCfg false).slot 0).mapper.kind = .none ∧ (sel fresh refCfg false).work.openOk = false
    ∧ ((sel (mapped .fallback)).slot 0).mapper.kind ≠ .none :=
  ⟨sel_onSlot _ _ _ _, rfl, rfl, by decide +kernel, by decide +kernel, rfl, rfl, by decide⟩

/-- DSC-3, DSC-4, DSC-5 and DSC-6, DSC-7. -/
theorem witness_DescriptorHeaderChecks :
    let h := fun (a b : Byte) => [a, 0, 0, 0, 0, 0, 0, 0, 0, 0, 0, 0, 0, 0, b, 0]
    (List.replicate 15 (0 : Byte)).length < refCfg.dsc.hdrMin
    ∧ (refCfg.dsc.hdrMin ≤ (h 0x10 0x11).length ∧ (h 0x10 0x11).length < (le16 (h 0x10 0x11) refCfg.dsc.dlenOff).toNat)
    ∧ ((le16 (h 0x0F 0x10) refCfg.dsc.dlenOff).toNat ≤ (h 0x0F 0x10).length
        ∧ (le16 (h 0x0F 0x10) refCfg.dsc.hlenOff).toNat < refCfg.dsc.hdrMin)
    ∧ (le16 (h 0x11 0x10) refCfg.dsc.dlenOff).toNat < (le16 (h 0x11 0x10) refCfg.dsc.hlenOff).toNat
    ∧ (refCfg.dsc.hdrMin ≤ (le16 (h 0x10 0x10) refCfg.dsc.hlenOff).toNat
        ∧ (le16 (h 0x10 0x10) refCfg.dsc.hlenOff).toNat ≤ (le16 (h 0x10 0x10) refCfg.dsc.dlenOff).toNat
        ∧ (le16 (h 0x10 0x10) refCfg.dsc.dlenOff).toNat ≤ (h 0x10 0x10).length) := by decide +kernel

theorem witness_DescriptorNeverReadsPastItsLength :
    refCfg.wf = true ∧ refCfg.dsc.hdrMin ≤ (descMsg 0xA0).data.length
    ∧ (le16 (descMsg 0xA0).data refCfg.dsc.dlenOff).toNat = (descMsg 0xA0).data.length := by decide +kernel

theorem witness_DescriptorSetsAreBounded :
    dscParse refCfg (descMsg 0xA0).data = .ok [placeholderGuid 0xA0] [] false false := by decide +kernel

/-- A descriptor with an offset table of eight entries (the class names' `names`, the identifiers' `guids`), after which
`lists` follow at byte 32, and a declared length of `bound`. -/
def dscOf (names guids bound : Byte) (lists : List Byte) : List Byte :=
  [0x10, 0, 0, 0, 0, 0, 0, 0, 0, 0, 0, 0, 0, 0, bound, 0] ++ [0, 0, 0, 0, 0, 0, 0, 0, 0, 0, names, 0, guids, 0, 0, 0] ++ lists

/-- Absent and outside lists, a list read whole, one of which the bound leaves the first element only, a repetition. -/
theorem witness_IdentifierListReadInOrder :
    let gs := [placeholderGuid 0xA0, placeholderGuid 0xA0]
    let d := fun (cnt bound : Byte) => dscOf 0 0x10 bound (cnt :: gs.flatten)
    DscHeader refCfg (dscOf 0 0 32 []) 16 32 ∧ ListAbsent (dscOf 0 0 32 []) 16 32 6 ∧ ListAbsent (dscOf 0 0 32 []) 16 32 5
    ∧ DscHeader refCfg (dscOf 0 0x10 32 []) 16 32 ∧ ListOutside (dscOf 0 0x10 32 []) 16 32 6
    ∧ ListAbsent (dscOf 0 0x10 32 []) 16 32 5
    ∧ DscHeader refCfg (dscOf 0 0 29 []) 16 29 ∧ ListOutside (dscOf 0 0 29 []) 16 29 6
    ∧ ListAbsent (dscOf 0 0 29 []) 16 29 5
    ∧ (∀ g ∈ gs, g.length = refCfg.dsc.guidBytes) ∧ DscHeader refCfg (d 2 65) 16 65
    ∧ ListAt (d 2 65) 16 65 6 32 gs.flatten ∧ gs.length = (byteAt (d 2 65) 32).toNat ∧ gs.eraseDups.length = 1
    ∧ DscHeader refCfg (d 2 64) 16 64 ∧ ListAt (d 2 64) 16 64 6 32 (gs.take 1).flatten
    ∧ ((gs.take 1).length < (byteAt (d 2 64) 32).toNat ∧ 64 < 32 + 1 + (gs.take 1).flatten.length + refCfg.dsc.guidBytes)
    ∧ ListAbsent (d 2 65) 16 65 5 := by decide +kernel

/-- A list read whole with an empty name and one too long, and lists that the bound ends in a prefix and in a name. -/
theorem witness_ClassNameListReadInOrder :
    let ns : List (List Byte) := [[0x54, 0x65], [], List.replicate 65 1]
    let d := fun (bound : Byte) => dscOf 0x10 0 bound (3 :: (ns.map nameBytes).flatten)
    refCfg.wf = true ∧ DscHeader refCfg (d 106) 16 106 ∧ (∀ name ∈ ns, name.length < 65536)
    ∧ ListAt (d 106) 16 106 5 32 (ns.map nameBytes).flatten ∧ ns.length = (byteAt (d 106) 32).toNat
    ∧ (ns.map (fun name => name.take refCfg.dsc.maxNameLen)).eraseDups.length = 3 ∧ ListAbsent (d 106) 16 106 6
    ∧ ListAt (d 40) 16 40 5 32 ((ns.take 2).map nameBytes).flatten ∧ DscHeader refCfg (d 40) 16 40
    ∧ ((ns.take 2).length < (byteAt (d 40) 32).toNat ∧ 40 < 39 + 2)
    ∧ ListAt (d 105) 16 105 5 32 ((ns.take 2).map nameBytes).flatten ∧ 105 < 39 + 2 + (le16 (d 105) 39).toNat
    ∧ DscHeader refCfg (dscOf 0 0 32 []) 16 32 ∧ ListAbsent (dscOf 0 0 32 []) 16 32 5
    ∧ ListAbsent (dscOf 0 0 32 []) 16 32 6 ∧ DscHeader refCfg (dscOf 0x10 0 32 []) 16 32
    ∧ ListOutside (dscOf 0x10 0 32 []) 16 32 5 ∧ ListAbsent (dscOf 0x10 0 32 []) 16 32 6 := by decide +kernel

theorem witness_ForwardedToExistingMapper :
    OnSlot 0 (sel (mapped .guitar)) ∧ ((sel (mapped .guitar)).slot 0).mapper.kind ≠ .none
    ∧ (sel (mapped .guitar)).work.ready = true ∧ (sel (mapped .guitar) refCfg true false).work.ready = false :=
  ⟨sel_onSlot _ _ _ _, by decide, rfl, rfl⟩

theorem witness_ForwardedBuildsLazyFallback :
    OnSlot 0 (sel fresh) ∧ ((sel fresh).slot 0).mapper.kind = .none ∧ (sel fresh refCfg false).work.openOk = false
    ∧ (sel fresh).work.openOk = true ∧ (sel fresh).work.ready = true ∧ (sel fresh refCfg true false).work.ready = false :=
  ⟨sel_onSlot _ _ _ _, rfl, rfl, rfl, rfl, rfl⟩

theorem witness_GuitarReportDecoded : OnSlot 0 (sel (mapped .guitar)) ∧ (zeros 0x20 10).data.length = refCfg.gtr.len :=
  ⟨sel_onSlot _ _ _ _, rfl⟩

theorem witness_FretBytesAreMergedByOr :
    refCfg.gtr.upperOff ≠ refCfg.gtr.lowerOff ∧ refCfg.gtr.upperOff < (zeros 0x20 10).data.length
    ∧ refCfg.gtr.lowerOff < (zeros 0x20 10).data.length ∧ (0x1F#8 ||| 0x00#8) = (0x00#8 ||| 0x1F#8) := by decide

theorem witness_DrumsReportDecoded : OnSlot 0 (sel (mapped .drums)) ∧ (zeros 0x20 6).data.length = refCfg.drm.len :=
  ⟨sel_onSlot _ _ _ _, rfl⟩

/-- Each clause of the latch rule, and the premise of its last. -/
theorem witness_DpadLatchRule :
    ((3 : BitVec 2) ≠ 1 ∧ (3 : BitVec 2) ≠ 0 ∧ (1 : BitVec 2) &&& 3 ≠ 0)
    ∧ ((1 : BitVec 2) ≠ 2 ∧ (2 : BitVec 2) &&& 1 = 0 ∧ (1 : BitVec 2).getLsbD 0 = true)
    ∧ ((2 : BitVec 2) ≠ 1 ∧ (1 : BitVec 2) &&& 2 = 0 ∧ (2 : BitVec 2).getLsbD 0 = false)
    ∧ latchOk 3 2 ∧ latchOk 0 0 := by decide

theorem witness_SixFretReportDecoded :
    OnSlot 0 (sel (mapped .sixFret)) ∧ (zeros 0x21 8).data.length = refCfg.ghl.len ∧ refCfg.ghl.whammyRest = 0x80#8 :=
  ⟨sel_onSlot _ _ _ _, rfl, rfl⟩

theorem witness_GamepadReportDecoded :
    OnSlot 0 (sel (mapped .gamepad) padCfg) ∧ padCfg.hasGamepad = true ∧ (zeros 0x20 14).data.length = padCfg.pad.len :=
  ⟨sel_onSlot _ _ _ _, rfl, rfl⟩

/-- The layouts a Fallback can find, under `FB_LAYOUTS` = all four. -/
theorem witness_FallbackSniffsByLength :
    let c := { padCfg with fbLayouts := [.guitar, .drums, .sixFret, .gamepad] }
    let found := fun (m : Message) =>
      c.fbLayouts.find? (fun k => m.cmd == c.reportCmd k && c.reportLen k == some m.data.length)
    c.wf = true ∧ OnSlot 0 (sel (mapped .fallback) c) ∧ found (zeros 0x20 10) = some .guitar
    ∧ found (zeros 0x20 6) = some .drums ∧ found (zeros 0x21 8) = some .sixFret ∧ found (zeros 0x20 14) = some .gamepad
    ∧ found (zeros 0x21 10) = none :=
  ⟨by decide +kernel, sel_onSlot _ _ _ _, by decide, by decide, by decide, by decide, by decide⟩

theorem witness_GuideKeyChangesGuideOnly :
    OnSlot 0 (sel (mapped .guitar) keyCfg) ∧ ((sel (mapped .guitar) keyCfg).slot 0).mapper.kind ∈ keyCfg.guideEn
    ∧ [1, (0x5B : Byte)].length = keyCfg.key.len ∧ byteAt [1, 0x5B] keyCfg.key.codeOff = keyCfg.key.guide
    ∧ ((sel (mapped .guitar)).slot 0).mapper.kind ∉ refCfg.guideEn ∧ [1, 0x5B, (0 : Byte)].length ≠ keyCfg.key.len
    ∧ byteAt [1, 0x41] keyCfg.key.codeOff ≠ keyCfg.key.guide :=
  ⟨sel_onSlot _ _ _ _, by decide, by decide, by decide, by decide, by decide, by decide⟩

theorem witness_UnrecognizedReportIgnored :
    (zeros 0x20 9).data.length ≠ refCfg.gtr.len ∧ (zeros 0x20 7).data.length ≠ refCfg.drm.len
    ∧ (zeros 0x21 7).data.length ≠ refCfg.ghl.len ∧ (zeros 0x20 13).data.length ≠ padCfg.pad.len
    ∧ refCfg.hasGamepad = false := by decide

/-- A LegacyDemux session with a Guitar as user 2 and a Drums kit as user 3. -/
def lgyState (openOk : Bool := true) : State := sel (lgySlot [kid .none, kid .none, kid .guitar, kid .drums]) lgyCfg openOk

/-- LGY-1 (user 2 replaced; user 3 with the other subtype), LGY-4. -/
theorem witness_LegacyConnectReplacesChild : ∃ l, (lgyState).cfg.lgy = some l
    ∧ OnSlot 0 lgyState ∧ l.userOff < [2, (0x0A : Byte)].length ∧ 2 = (byteAt [2, 0x0A] l.userOff).toNat ∧ 3 < l.nUsers
    ∧ ((lgyState).slot 0).children[2]? = some (kid .guitar) ∧ l.connectMin ≤ [2, (0x0A : Byte)].length
    ∧ byteAt [2, 0x0A] l.subtypeOff ∈ l.subtypesGuitar
    ∧ (0x0B ∉ l.subtypesGuitar ∧ 0x0B = l.subtypeDrums) ∧ (0x77 ∉ l.subtypesGuitar ∧ 0x77 ≠ l.subtypeDrums)
    ∧ (lgyState).work.openOk = true ∧ (lgyState false).work.openOk = false :=
  ⟨_, rfl, sel_onSlot _ _ _ _, by decide, by decide, by decide, rfl, by decide, by decide, by decide, by decide, rfl, rfl⟩

theorem witness_LegacyDisconnectRemovesChild : ∃ l, (lgyState).cfg.lgy = some l
    ∧ OnSlot 0 lgyState ∧ l.userOff < [(2 : Byte)].length ∧ 2 = (byteAt [2] l.userOff).toNat ∧ 2 < l.nUsers
    ∧ ((lgyState).slot 0).children[2]? = some (kid .guitar) ∧ (kid .guitar).kind ≠ .none
    ∧ ((lgyState).slot 0).children[0]? = some (kid .none) ∧ (kid .none).kind = .none :=
  ⟨_, rfl, sel_onSlot _ _ _ _, by decide, by decide, by decide, rfl, by decide, rfl, rfl⟩

theorem witness_LegacyInputReachesItsChild : ∃ l, (lgyState).cfg.lgy = some l
    ∧ OnSlot 0 lgyState ∧ l.userOff < (2 :: (zeros 0x52 10).data).length
    ∧ 2 = (byteAt (2 :: (zeros 0x52 10).data) l.userOff).toNat ∧ 3 < l.nUsers
    ∧ ((lgyState).slot 0).children[2]? = some (kid .guitar) ∧ ((lgyState).slot 0).children[3]? = some (kid .drums)
    ∧ l.innerOff ≤ (2 :: (zeros 0x52 10).data).length
    ∧ ((2 :: (zeros 0x52 10).data).drop l.innerOff).length = lgyCfg.gtr.len
    ∧ ((3 :: (zeros 0x52 6).data).drop l.innerOff).length = lgyCfg.drm.len
    ∧ ((lgyState).slot 0).children[1]? = some (kid .none) :=
  ⟨_, rfl, sel_onSlot _ _ _ _, by decide, by decide, by decide, rfl, rfl, by decide, by decide, by decide, rfl⟩

/-- Each check: no unit, no user byte, a user out of range, a connect sub-message of one byte. -/
theorem witness_LegacySubMessageChecks : refCfg.lgy = none ∧ ∃ l, lgyCfg.lgy = some l
    ∧ ([] : List Byte).length ≤ l.userOff
    ∧ (l.userOff < [(4 : Byte)].length ∧ l.nUsers ≤ (byteAt [4] l.userOff).toNat)
    ∧ (l.userOff < [(3 : Byte)].length ∧ (byteAt [3] l.userOff).toNat < l.nUsers ∧ [(3 : Byte)].length < l.connectMin) :=
  ⟨rfl, _, rfl, by decide, by decide, by decide⟩

theorem witness_CloseOperation :
    findKey 9 (on (mapped .guitar)).slots = none ∧ findKey (Key.wireless 1) (on (mapped .guitar)).slots = some 0 :=
  ⟨rfl, rfl⟩

theorem witness_SinkLostOperation :
    (∀ i, findKey (Key.wireless 1) (on fresh).slots = some i → ((on fresh).slot i).mapper.kind = .none)
    ∧ findKey (Key.wireless 1) (on (mapped .guitar)).slots = some 0 ∧ ((on (mapped .guitar)).slot 0).mapper.kind ≠ .none := by
  refine ⟨fun i h => ?_, rfl, by decide⟩
  have e : findKey (Key.wireless 1) (on fresh).slots = some 0 := rfl
  rw [e] at h
  cases h
  rfl

theorem witness_CsrReadOperation : ∃ v, v = (if (4 : Nat) = 0 then 0 else sessValid (on fresh).slots) := ⟨_, rfl⟩

/-- Bits 0 and 9 of the mask: cleared and not. -/
theorem witness_CsrWriteOneToClear :
    ∀ i, i < 16 → (0xFE00#16).getLsbD i
      = ((0xFFFF#16).getLsbD i && !(decide ((0 : Nat) = 0) && decide (i < 9) && (0xFFFF#16).getLsbD i)) := by decide

end Sys2Proof.Tests
end

section
/-! The scaling functions of 00_scope.md rule R13 as exact integers, and the plateau function of `REFCFG` (rule R6). -/

namespace Sys2Proof.Machine

/-! ## Replication and the sign bit -/

/-- Writing a word twice multiplies it: the shape that `rep16` and `nib8` share. -/
theorem append_self_toNat {w : Nat} (x : BitVec w) : (x ++ x).toNat = (2 ^ w + 1) * x.toNat := by
  rw [BitVec.toNat_append, ← Nat.shiftLeft_add_eq_or_of_lt x.isLt, Nat.shiftLeft_eq]
  ring

theorem rep16_toNat (b : Byte) : (rep16 b).toNat = 257 * b.toNat := append_self_toNat b

theorem nib8_toNat (n : BitVec 4) : (nib8 n).toNat = 17 * n.toNat := append_self_toNat n

theorem rep16_eq_shift_or (b : Byte) : rep16 b = (b.setWidth 16 <<< 8) ||| b.setWidth 16 := by
  have hb := b.isLt
  have hmod : b.toNat <<< 8 % 2 ^ 16 = b.toNat <<< 8 :=
    Nat.mod_eq_of_lt (by rw [Nat.shiftLeft_eq]; omega)
  apply BitVec.eq_of_toNat_eq
  simp only [rep16, BitVec.toNat_append, BitVec.toNat_or, BitVec.toNat_shiftLeft, BitVec.toNat_setWidth]
  rw [Nat.mod_eq_of_lt (show b.toNat < 2 ^ 16 by omega), hmod]

/-- A word below the sign bit is its own signed value. -/
theorem toInt_of_lt_signBit {x : I16} (h : x.toNat < 32768) : x.toInt = x.toNat :=
  BitVec.toInt_eq_toNat_of_lt (by omega)

/-- Turning the sign bit over moves an unsigned word to the signed range, 0 to its least value. -/
theorem toInt_xor_signBit (x : I16) : (x ^^^ 0x8000#16).toInt = (x.toNat : Int) - 32768 := by
  have hx := x.isLt
  have low : (x.toNat ^^^ 32768) % 2 ^ 15 = x.toNat % 2 ^ 15 :=
    (Nat.xor_mod_two_pow (a := x.toNat) (b := 32768) (n := 15)).trans (Nat.xor_zero _)
  have high : (x.toNat ^^^ 32768) / 2 ^ 15 = 1 - x.toNat / 2 ^ 15 := by
    have hq : x.toNat / 2 ^ 15 = 0 ∨ x.toNat / 2 ^ 15 = 1 := by omega
    rw [Nat.xor_div_two_pow]
    rcases hq with hq | hq <;> rw [hq] <;> rfl
  have hn : (x ^^^ 0x8000#16).toNat = x.toNat ^^^ 32768 := by simp
  rw [BitVec.toInt_eq_toNat_cond, hn]
  split <;> omega

/-- Setting the sign bit of a word below it takes 32768 off its signed value. -/
theorem toInt_or_signBit {x : I16} (h : x.toNat < 32768) : (x ||| 0x8000#16).toInt = x.toInt - 32768 := by
  have hn : (x ||| 0x8000#16).toNat = 32768 + x.toNat :=
    (Nat.lor_comm _ _).trans (Nat.two_pow_add_eq_or_of_lt (i := 15) h 1).symm
  rw [toInt_of_lt_signBit h, BitVec.toInt_eq_toNat_cond, hn]
  split <;> omega

/-! ## The analog axes -/

theorem axisFull_toInt (b : Byte) : (axisFull b).toInt = 257 * (b.toNat : Int) - 32768 := by
  rw [axisFull, toInt_xor_signBit, rep16_toNat]
  push_cast
  rfl

theorem axisHalf_toInt (b : Byte) : (axisHalf b).toInt = ((257 * b.toNat / 2 : Nat) : Int) := by
  have hb := b.isLt
  have hn : (axisHalf b).toNat = 257 * b.toNat / 2 := by
    rw [axisHalf, BitVec.toNat_ushiftRight, rep16_toNat, Nat.shiftRight_one]
  rw [toInt_of_lt_signBit (by omega), hn]

/-! ## The velocity axes -/

theorem rep16_nib8_toNat (n : BitVec 4) : (rep16 (nib8 n)).toNat = n.toNat * 0x1111 := by
  rw [rep16_toNat, nib8_toNat]
  omega

theorem velPos_toNat (n : BitVec 4) : (velPos n).toNat = (0xFFFF - n.toNat * 0x1111) / 2 := by
  rw [velPos, BitVec.toNat_ushiftRight, BitVec.toNat_not, rep16_nib8_toNat, Nat.shiftRight_one]

theorem velPos_lt_signBit (n : BitVec 4) : (velPos n).toNat < 32768 := by
  rw [velPos_toNat]
  omega

theorem velPos_toInt (n : BitVec 4) : (velPos n).toInt = ((0xFFFF - n.toNat * 0x1111) / 2 : Nat) := by
  rw [toInt_of_lt_signBit (velPos_lt_signBit n), velPos_toNat]

theorem velNeg_toInt (n : BitVec 4) : (velNeg n).toInt = (velPos n).toInt - 32768 :=
  toInt_or_signBit (velPos_lt_signBit n)

/-- Each step of the nibble takes 0x1111 off the word that is halved, so no two nibbles share a value. -/
theorem velPos_strictAnti {a b : BitVec 4} (h : a < b) : (velPos b).toInt < (velPos a).toInt := by
  have hab : a.toNat < b.toNat := h
  have hb := b.isLt
  rw [velPos_toInt, velPos_toInt]
  omega

theorem velNeg_strictAnti {a b : BitVec 4} (h : a < b) : (velNeg b).toInt < (velNeg a).toInt := by
  have := velPos_strictAnti h
  rw [velNeg_toInt, velNeg_toInt]
  omega

/-! ## The plateaus of `REFCFG` -/

/-- The value that five steps at the multiples of 16 give is the one numbered by the upper nibble, 4 at most. -/
theorem plateauAt_sixteenths (b : Nat) (v0 v v1 v2 v3 v4 : I16) :
    [v0, v1, v2, v3, v4][min (b / 16) 4]?
      = some (plateauAt b v [(0x00, v0), (0x10, v1), (0x20, v2), (0x30, v3), (0x40, v4)]) := by
  simp only [plateauAt, Nat.zero_le, if_true]
  by_cases h1 : 0x10 ≤ b
  · by_cases h2 : 0x20 ≤ b
    · by_cases h3 : 0x30 ≤ b
      · by_cases h4 : 0x40 ≤ b
        · simp [h1, h2, h3, h4, show min (b / 16) 4 = 4 by omega]
        · simp [h1, h2, h3, h4, show min (b / 16) 4 = 3 by omega]
      · simp [h1, h2, h3, show min (b / 16) 4 = 2 by omega]
    · simp [h1, h2, show min (b / 16) 4 = 1 by omega]
  · simp [h1, show min (b / 16) 4 = 0 by omega]

theorem pickupPlateau_refCfg (b : Byte) :
    [(-32768 : Int), -16384, 0, 16384, 32767][min (b.toNat / 16) 4]? = some (pickupPlateau refCfg b).toInt := by
  have h := congrArg (Option.map BitVec.toInt)
    (plateauAt_sixteenths b.toNat 0x8000#16 0 0xC000#16 0x0000#16 0x4000#16 0x7FFF#16)
  rwa [← List.getElem?_map] at h

/-- Settles O45: the exact integers of each scaling function, from replication and the sign bit. -/
theorem scalingFormulas : Obligations.ScalingFormulas := by
  unfold Obligations.ScalingFormulas
  refine ⟨fun b => ⟨rep16_toNat b, rep16_eq_shift_or b, axisFull_toInt b, axisHalf_toInt b⟩, pickupPlateau_refCfg,
    fun n => ⟨nib8_toNat n, rep16_nib8_toNat n, velPos_toInt n, velNeg_toInt n⟩,
    fun a b h => ⟨velPos_strictAnti h, velNeg_strictAnti h⟩, by decide, by decide, by decide, by decide,
    fun _ _ _ => rfl⟩

end Sys2Proof.Machine
end

section
/-! How a step ends (rules R8, R321, R347, R41): what each row adds to the sink operations, and that the row which ends the
step leaves one record that `LAST_*` repeat. One lemma per level of the opcode map, and the step assembled from them. -/

namespace Sys2Proof.Machine

/-! ## The order of sink operations -/

/-- The order of rule R347: closes, opens, the upstream request, the submit, of which there is one at most. -/
def Ordered (ops : List Event) : Prop := (ops.map Event.rank).Pairwise (· ≤ ·) ∧ (submits ops).length ≤ 1

/-- Nothing but closes: what a teardown adds. -/
def ClosesOnly (ops : List Event) : Prop := ∀ e ∈ ops, e.rank = 0

/-- Nothing, or the operations of one construction on slot `n`. -/
def OpensAtMost (n : Nat) (ops : List Event) : Prop := ops = [] ∨ ∃ k, ops = opens n k

/-- Nothing, or one submit: what a report adds. -/
def SubmitsAtMost (ops : List Event) : Prop := ops = [] ∨ ∃ n u o, ops = [.sinkSubmit n u o]

theorem submits_eq_nil {ops : List Event} (h : ∀ e ∈ ops, e.rank < 3) : submits ops = [] := by
  refine List.filter_eq_nil_iff.mpr fun e he => ?_
  have hr := h e he
  cases e with
  | sinkSubmit => simp [Event.rank] at hr
  | sinkClose | sinkOpen | requestConnectedDevices => simp

theorem ordered_nil : Ordered [] := ⟨.nil, Nat.zero_le _⟩

theorem ordered_singleton (e : Event) : Ordered [e] := ⟨by simp, List.length_filter_le _ _⟩

/-- Operations of one rank below the submit's may stand before operations of that rank or higher. -/
theorem ordered_append {r : Nat} {a b : List Event} (hr : r < 3) (ha : ∀ e ∈ a, e.rank = r) (hb : Ordered b)
    (hle : ∀ e ∈ b, r ≤ e.rank) : Ordered (a ++ b) := by
  obtain ⟨hrank, hsub⟩ := hb
  have hnil : submits a = [] := submits_eq_nil fun e he => (ha e he).trans_lt hr
  constructor
  · rw [List.map_append, List.pairwise_append]
    refine ⟨List.pairwise_of_forall_mem_list ?_, hrank, ?_⟩
    · simp only [List.forall_mem_map]
      exact fun e he e' he' => ((ha e he).trans (ha e' he').symm).le
    · simp only [List.forall_mem_map]
      exact fun e he e' he' => (ha e he).trans_le (hle e' he')
  · rw [submits, List.filter_append, ← submits, ← submits, hnil]
    exact hsub

theorem ClosesOnly.ordered {ops : List Event} (h : ClosesOnly ops) : Ordered ops := by
  simpa using ordered_append (by decide) h ordered_nil (by simp)

/-- A child replaced: its predecessor's close, then its open (rule R302). -/
theorem ClosesOnly.ordered_open {ops : List Event} (h : ClosesOnly ops) (n : Nat) (u : Option Nat) (k : Kind) :
    Ordered (ops ++ [.sinkOpen n u k]) :=
  ordered_append (by decide) h (ordered_singleton _) (by simp)

theorem OpensAtMost.ordered {n : Nat} {ops : List Event} (h : OpensAtMost n ops) : Ordered ops := by
  rcases h with rfl | ⟨k, rfl⟩
  · exact ordered_nil
  · unfold opens
    split
    · exact ordered_append (r := 1) (a := [_]) (by decide) (by simp [Event.rank]) (ordered_singleton _)
        (by simp [Event.rank])
    · exact ordered_singleton _

theorem SubmitsAtMost.ordered {ops : List Event} (h : SubmitsAtMost ops) : Ordered ops := by
  rcases h with rfl | ⟨n, u, o, rfl⟩
  · exact ordered_nil
  · exact ordered_singleton _

/-- The lazy Fallback's open, then the report that caused it (rule R196). -/
theorem SubmitsAtMost.ordered_opens_fallback {ops : List Event} (h : SubmitsAtMost ops) (n : Nat) :
    Ordered (opens n .fallback ++ ops) := by
  refine ordered_append (r := 1) (by decide) (by simp [opens, Event.rank]) h.ordered ?_
  rcases h with rfl | ⟨i, u, o, rfl⟩ <;> simp [Event.rank]

theorem childCloses_closesOnly (i u : Nat) (l : List Child) : ClosesOnly (childCloses i u l) := by
  induction l generalizing u with
  | nil => simp [ClosesOnly, childCloses]
  | cons x rest ih =>
    have hrest := ih (u + 1)
    unfold childCloses
    split
    · exact hrest
    · exact List.forall_mem_cons.mpr ⟨rfl, hrest⟩

theorem closes_closesOnly (i : Nat) (x : Slot) : ClosesOnly (closes i x) := by
  unfold closes
  split
  · simp [ClosesOnly]
  · refine List.forall_mem_append.mpr ⟨?_, by simp [Event.rank]⟩
    split
    · exact childCloses_closesOnly i 0 x.children
    · simp

/-! ## What a part of a step adds -/

/-- From `s` to `t` the sink operations `ops` were added, and no input was taken. -/
def Adds (ops : List Event) (s t : State) : Prop := t.inputs = s.inputs ∧ t.events = s.events ++ ops

/-- The step has ended with one record, which `LAST_*` repeat (rules R41, R321). -/
def Reported (t : State) : Prop :=
  t.work.stage = .done
    ∧ ∃ res, t.result = some res ∧ t.lastCode = res.code.byte ∧ t.lastInfo = res.info ∧ t.lastSlot = slotByte res.slot

/-- From `s` the step ends in `t` with a record that `LAST_*` repeat. -/
def Ends (ops : List Event) (s t : State) : Prop := Adds ops s t ∧ Reported t

/-- From `s` the step goes on in `t`, on slot `n`, with the row of stage `g`. -/
def Passes (n : Nat) (ops : List Event) (g : Stage) (s t : State) : Prop :=
  Adds ops s t ∧ t.work.stage = g ∧ Selected n t

theorem adds_nil {s t : State} (hi : t.inputs = s.inputs) (he : t.events = s.events) : Adds [] s t :=
  ⟨hi, by simp [he]⟩

theorem Adds.trans {a b : List Event} {s t u : State} (h1 : Adds a s t) (h2 : Adds b t u) : Adds (a ++ b) s u :=
  ⟨h2.1.trans h1.1, by rw [h2.2, h1.2, List.append_assoc]⟩

theorem Adds.trans_ends {a b : List Event} {s t u : State} (h1 : Adds a s t) (h2 : Ends b t u) : Ends (a ++ b) s u :=
  ⟨h1.trans h2.1, h2.2⟩

theorem adds_emit (e : Event) (s : State) : Adds [e] s (emit e s) := ⟨rfl, rfl⟩

theorem adds_raiseEv (e : Ev) (s : State) : Adds [] s (raiseEv e s) := adds_nil rfl rfl

theorem adds_setCur (x : Slot) (s : State) : Adds [] s (s.setCur x) := adds_nil (by simp) (by simp)

theorem adds_setSlot (i : Nat) (x : Slot) (s : State) : Adds [] s (s.setSlot i x) := adds_nil rfl rfl

theorem reported_finish (c : Code) (v : Nat) (s : State) : Reported (finish c v s) := ⟨rfl, _, rfl, rfl, rfl, rfl⟩

theorem Adds.finish {ops : List Event} {s t : State} (h : Adds ops s t) (c : Code) (v : Nat) : Ends ops s (finish c v t) :=
  ⟨h, reported_finish c v t⟩

theorem ends_finish (c : Code) (v : Nat) (s : State) : Ends [] s (finish c v s) := (adds_nil rfl rfl).finish c v

theorem ends_ignoreMessage (s : State) : Ends [] s (ignoreMessage s) := ends_finish _ _ s

theorem ends_raise (c : Code) (v : Nat) (s : State) : Ends [] s (raise c v s) := by
  have h : Adds [] s (raiseClass c.cls s) := by cases c.cls <;> exact adds_nil rfl rfl
  exact h.finish c v

theorem Adds.raise {ops : List Event} {s t : State} (h : Adds ops s t) (c : Code) (v : Nat) : Ends ops s (raise c v t) := by
  simpa using h.trans_ends (ends_raise c v t)

/-! ## Level 1 -/

theorem dedup_ends_or_passes {n : Nat} {s : State} (h : Selected n s) (m : Message) :
    Ends [] s (dedup m s) ∨ Passes n [] (.message m) s (dedup m s) := by
  rcases dedup_cases h m with ⟨-, e⟩ | ⟨-, e⟩ <;> rw [e]
  · exact .inl (ends_finish _ _ s)
  · exact .inr ⟨adds_nil rfl rfl, rfl, by simpa [Selected] using h⟩

theorem chunkAppend_ends {n : Nat} {s : State} (h : Selected n s) (off : Nat) (p : List Byte) :
    Ends [] s (chunkAppend off p s) := by
  rcases chunkAppend_cases h off p with ⟨-, e⟩ | ⟨-, -, e⟩ | ⟨-, -, e⟩ <;> rw [e] <;>
    exact (adds_setSlot n _ s).raise _ _

theorem chunkTerminate_ends_or_passes {n : Nat} {s : State} (h : Selected n s) (hd : Hdr) (x : Nat) :
    Ends [] s (chunkTerminate hd x s) ∨ ∃ m, Passes n [] (.message m) s (chunkTerminate hd x s) := by
  rcases chunkTerminate_cases h hd x with ⟨-, e⟩ | ⟨-, e⟩ <;> rw [e]
  · exact .inl ((adds_setSlot n _ s).raise _ _)
  · have hn : Selected n (s.setSlot n { s.slot n with cstate := .idle }) := by simpa [Selected] using h
    refine (dedup_ends_or_passes hn _).imp (adds_setSlot n _ s).trans_ends ?_
    rintro ⟨hadds, hstage⟩
    exact ⟨_, (adds_setSlot n _ s).trans hadds, hstage⟩

/-- A level-1 row ends the step or hands a complete message on; it adds no sink operation. -/
theorem framing_row {n : Nat} {s : State} {i : Instr} (hl : i.level = .framing) (h : Selected n s) :
    ∃ t, exec i s = .next t ∧ (Ends [] s t ∨ ∃ m, Passes n [] (.message m) s t) := by
  cases i with
  | msg hd p => exact ⟨_, rfl, (dedup_ends_or_passes h _).imp_right fun hp => ⟨_, hp⟩⟩
  | chkNop hd => exact ⟨_, rfl, .inl (ends_finish _ _ s)⟩
  | chkS hd x p =>
    refine ⟨_, rfl, .inl ?_⟩
    split
    · exact (adds_setCur _ s).raise _ _
    · split
      · exact (adds_setCur _ s).raise _ _
      · exact (adds_setCur _ s).trans_ends (chunkAppend_ends (h.setCur _) 0 p)
  | chkE hd x =>
    refine ⟨_, rfl, ?_⟩
    split
    · exact .inl (ends_raise _ _ s)
    · split
      · exact chunkTerminate_ends_or_passes h hd x
      · exact .inl (chunkAppend_ends h x [])
  | chkD hd x p =>
    refine ⟨_, rfl, .inl ?_⟩
    split
    · exact ends_raise _ _ s
    · exact chunkAppend_ends h x p
  | _ => nomatch hl

/-! ## Level 2 -/

theorem construct_adds {n : Nat} {s : State} (h : Selected n s) (k : Kind) (am : AxisMode) (pm : PickupMode) :
    ∃ ops, OpensAtMost n ops ∧ Adds ops s (construct k am pm s) := by
  rcases construct_cases h k am pm with ⟨-, e⟩ | ⟨-, e⟩ <;> rw [e]
  · exact ⟨_, .inl rfl, adds_raiseEv _ s⟩
  · exact ⟨_, .inr ⟨k, rfl⟩, rfl, rfl⟩

theorem factory_adds {n : Nat} {s : State} (h : Selected n s) : ∃ ops, OpensAtMost n ops ∧ Adds ops s (factory s) := by
  rcases factory_cases s with ⟨g, -, e⟩ | ⟨-, e⟩ <;> rw [e]
  · exact construct_adds h _ _ _
  · have hr : Selected n (raiseEv .selAmbig s) := h
    obtain ⟨ops, hops, hadds⟩ := construct_adds hr .fallback .full .continuous
    exact ⟨ops, hops, (adds_raiseEv _ s).trans hadds⟩

theorem selectMapper_ends {n : Nat} {s : State} (h : Selected n s) :
    ∃ ops, OpensAtMost n ops ∧ Ends ops s (selectMapper s) := by
  have hsel : ∃ ops, OpensAtMost n ops ∧ Adds ops s (if s.cur.mapper.kind = .none then factory s else s) := by
    split
    · exact factory_adds h
    · exact ⟨_, .inl rfl, adds_nil rfl rfl⟩
  obtain ⟨ops, hops, hadds⟩ := hsel
  refine ⟨ops, hops, ?_⟩
  unfold selectMapper
  dsimp only
  generalize (if s.cur.mapper.kind = .none then factory s else s) = s1 at hadds ⊢
  split
  · exact hadds.raise _ _
  · exact hadds.finish _ _

theorem dscCommit_adds {n : Nat} {s : State} (h : Selected n s) (g nm : List (List Byte)) (part cap : Bool) :
    Adds [] s (dscCommit g nm part cap s) ∧ Selected n (dscCommit g nm part cap s) := by
  have hset (x : Slot) : Adds [] s (s.setCur x) ∧ Selected n (s.setCur x) := ⟨adds_setCur x s, h.setCur x⟩
  cases part <;> cases cap <;> exact hset _

theorem descriptor_ends {n : Nat} {s : State} (h : Selected n s) (m : Message) :
    ∃ t, exec (.descriptor m) s = .next t ∧ ∃ ops, OpensAtMost n ops ∧ Ends ops s t := by
  refine ⟨_, rfl, ?_⟩
  split
  · exact ⟨_, .inl rfl, ends_finish _ _ s⟩
  · split
    · exact ⟨_, .inl rfl, ends_raise _ _ s⟩
    · next g nm part cap _ =>
      obtain ⟨hadds, hsel⟩ := dscCommit_adds h g nm part cap
      obtain ⟨ops, hops, hends⟩ := selectMapper_ends hsel
      exact ⟨ops, hops, hadds.trans_ends hends⟩

/-- Lazy construction opens the Fallback or is refused (rule R196). -/
theorem lazyFallback_adds {n : Nat} {s : State} (h : Selected n s) (hk : s.cur.mapper.kind = .none) :
    Selected n (lazyFallback s)
      ∧ ((Adds [] s (lazyFallback s) ∧ (lazyFallback s).cur.mapper.kind = .none)
        ∨ (Adds (opens n .fallback) s (lazyFallback s) ∧ (lazyFallback s).cur.mapper.kind = .fallback)) := by
  obtain ⟨hsel, hlt⟩ := h
  rcases lazyFallback_cases ⟨hsel, hlt⟩ (cur_of_sel hsel ▸ hk) with ⟨-, e⟩ | ⟨-, -, e⟩ | ⟨-, -, e⟩ <;> rw [e]
  · exact ⟨⟨hsel, hlt⟩, .inl ⟨adds_raiseEv _ s, by rw [raiseEv_cur, hk]⟩⟩
  · exact ⟨⟨hsel, by simpa using hlt⟩, .inr ⟨⟨rfl, rfl⟩, by simp [State.cur, State.slot, hsel, hlt, Slot.mapped]⟩⟩
  · exact ⟨⟨hsel, by simpa using hlt⟩, .inr ⟨⟨rfl, rfl⟩, by simp [State.cur, State.slot, hsel, hlt, Slot.mapped]⟩⟩

/-- How a level-2 row leaves the step: it ends it, or hands the message on to a mapper that was there or to the Fallback
just built. -/
def DispatchOutcome (n : Nat) (s t : State) : Prop :=
  (∃ ops, OpensAtMost n ops ∧ Ends ops s t)
    ∨ ∃ m, Passes n [] (.report m) s t
      ∨ (Passes n (opens n .fallback) (.report m) s t ∧ t.cur.mapper.kind = .fallback)

theorem forward_outcome {n : Nat} {s : State} (h : Selected n s) (m : Message) : DispatchOutcome n s (forward m s) := by
  by_cases hk : s.cur.mapper.kind = .none
  · rw [forward_none hk]
    obtain ⟨hsel, ⟨hadds, hnone⟩ | ⟨hadds, hfb⟩⟩ := lazyFallback_adds h hk
    · rw [if_pos hnone]
      exact .inl ⟨_, .inl rfl, hadds.raise _ _⟩
    · rw [if_neg (by simp [hfb])]
      split
      · exact .inl ⟨_, .inr ⟨_, rfl⟩, hadds.raise _ _⟩
      · exact .inr ⟨m, .inr ⟨⟨hadds, rfl, hsel⟩, hfb⟩⟩
  · rw [forward_mapper hk]
    split
    · exact .inl ⟨_, .inl rfl, ends_raise _ _ s⟩
    · exact .inr ⟨m, .inl ⟨adds_nil rfl rfl, rfl, h⟩⟩

theorem dispatch_row {n : Nat} {s : State} {i : Instr} (hl : i.level = .dispatch) (h : Selected n s) :
    ∃ t, exec i s = .next t ∧ DispatchOutcome n s t := by
  cases i with
  | ack m | auth m | serial m => exact ⟨_, rfl, .inl ⟨_, .inl rfl, ends_finish _ _ s⟩⟩
  | arrival m =>
    refine ⟨_, rfl, .inl ⟨[], .inl rfl, ?_⟩⟩
    split
    · exact ends_finish _ _ s
    · split
      · exact ends_raise _ _ s
      · exact (adds_setCur _ s).finish _ _
  | descriptor m =>
    obtain ⟨t, ht, hends⟩ := descriptor_ends h m
    exact ⟨t, ht, .inl hends⟩
  | keystroke m | input m | ghlInput m | other m => exact ⟨_, rfl, forward_outcome h m⟩
  | _ => nomatch hl

/-! ## Level 3 -/

/-- The row ends the step with one submit at most. -/
def EndsWithSubmit (s t : State) : Prop := ∃ ops, SubmitsAtMost ops ∧ Ends ops s t

theorem Ends.withSubmit {s t : State} (h : Ends [] s t) : EndsWithSubmit s t := ⟨_, .inl rfl, h⟩

theorem Adds.trans_endsWithSubmit {s t u : State} (h : Adds [] s t) (h' : EndsWithSubmit t u) : EndsWithSubmit s u := by
  obtain ⟨ops, hops, hends⟩ := h'
  exact ⟨ops, hops, h.trans_ends hends⟩

/-- A submit and the result, after a write to the slot: the end that every report and guide key event shares. -/
theorem submit_ends (n : Nat) (u : Option Nat) (o : Out) (x : Slot) (c : Code) (v : Nat) (s : State) :
    EndsWithSubmit s (finish c v (emit (.sinkSubmit n u o) (s.setCur x))) :=
  ⟨_, .inr ⟨n, u, o, rfl⟩, ((adds_setCur x s).trans (adds_emit _ _)).finish c v⟩

theorem commit_ends (o : Out) (s : State) : EndsWithSubmit s (commit o s) := submit_ends _ _ _ _ _ _ s

theorem commitChild_ends (u : Nat) (o : Out) (s : State) : EndsWithSubmit s (commitChild u o s) :=
  submit_ends _ _ _ _ _ _ s

theorem decodeDrums_ends (d : List Byte) (s : State) : EndsWithSubmit s (decodeDrums d s) :=
  (adds_setCur _ s).trans_endsWithSubmit (commit_ends _ _)

theorem decodeChildDrums_ends (u : Nat) (d : List Byte) (s : State) : EndsWithSubmit s (decodeChildDrums u d s) :=
  (adds_setCur _ s).trans_endsWithSubmit (commitChild_ends u _ _)

theorem runLayout_ends (k : Kind) (d : List Byte) (s : State) : EndsWithSubmit s (runLayout k d s) := by
  cases k with
  | guitar | sixFret | gamepad => exact commit_ends _ s
  | drums => exact decodeDrums_ends d s
  | none | fallback | legacyDemux => exact (ends_ignoreMessage s).withSubmit

theorem inputFb_ends (m : Message) (s : State) : ∃ t, exec (.inputFb m) s = .next t ∧ EndsWithSubmit s t := by
  refine ⟨_, rfl, ?_⟩
  split
  · exact runLayout_ends _ _ s
  · exact (ends_ignoreMessage s).withSubmit

theorem keystrokeGuide_ends (m : Message) (s : State) :
    ∃ t, exec (.keystrokeGuide m) s = .next t ∧ EndsWithSubmit s t := by
  refine ⟨_, rfl, ?_⟩
  split
  · exact (ends_ignoreMessage s).withSubmit
  · split
    · exact (ends_ignoreMessage s).withSubmit
    · exact submit_ends _ _ _ _ _ _ s

/-- A report that a layout takes or, of another length, ignores (rule R241). -/
theorem ite_ignore_ends {p : Prop} [Decidable p] {s t : State} (h : EndsWithSubmit s t) :
    EndsWithSubmit s (if p then t else ignoreMessage s) := by
  split
  · exact h
  · exact (ends_ignoreMessage s).withSubmit

/-- The row ends the step with its sink operations in order. -/
def EndsInOrder (s t : State) : Prop := ∃ ops, Ordered ops ∧ Ends ops s t

theorem EndsWithSubmit.inOrder {s t : State} (h : EndsWithSubmit s t) : EndsInOrder s t := by
  obtain ⟨ops, hops, hends⟩ := h
  exact ⟨ops, hops.ordered, hends⟩

theorem disposeChild_adds (u : Nat) (s : State) : ∃ ops, ClosesOnly ops ∧ Adds ops s (disposeChild u s) := by
  unfold disposeChild
  split
  · exact ⟨[], by simp [ClosesOnly], adds_nil rfl rfl⟩
  · exact ⟨_, by simp [ClosesOnly, Event.rank], (adds_setCur _ s).trans (adds_emit _ _)⟩

theorem connectChild_ends (u : Nat) (k : Kind) (s : State) : EndsInOrder s (connectChild u k s) := by
  obtain ⟨ops, hops, hadds⟩ := disposeChild_adds u s
  unfold connectChild
  dsimp only
  split
  · exact ⟨_, hops.ordered, by simpa using (hadds.trans (adds_raiseEv _ _)).finish _ _⟩
  · exact ⟨_, hops.ordered_open _ _ _, (hadds.trans ((adds_setCur _ _).trans (adds_emit _ _))).finish _ _⟩

/-- A row of the legacy demultiplexer ends in order if what it does for a user in range does (rule R302). -/
theorem withUser_ends (m : Message) (s : State) (k : LgyCfg → Nat → State) (h : ∀ l u, EndsInOrder s (k l u)) :
    EndsInOrder s (withUser m s k) := by
  have ignored := (ends_ignoreMessage s).withSubmit.inOrder
  rcases withUser_cases m s k with ⟨-, e⟩ | ⟨l, -, ⟨-, e⟩ | ⟨-, -, e⟩ | ⟨-, -, e⟩⟩ <;> rw [e]
  · exact ignored
  · exact ignored
  · exact ⟨_, ordered_nil, (adds_raiseEv _ s).finish _ _⟩
  · exact h l _

theorem lgyConnect_ends (m : Message) (s : State) : ∃ t, exec (.lgyConnect m) s = .next t ∧ EndsInOrder s t := by
  refine ⟨_, rfl, withUser_ends m s _ fun l u => ?_⟩
  split
  · exact (ends_ignoreMessage s).withSubmit.inOrder
  · split
    · exact ⟨_, ordered_nil, (adds_raiseEv _ s).finish _ _⟩
    · exact connectChild_ends u _ s

theorem lgyDisconnect_ends (m : Message) (s : State) : ∃ t, exec (.lgyDisconnect m) s = .next t ∧ EndsInOrder s t := by
  refine ⟨_, rfl, withUser_ends m s _ fun l u => ?_⟩
  obtain ⟨ops, hops, hadds⟩ := disposeChild_adds u s
  exact ⟨ops, hops.ordered, hadds.finish _ _⟩

theorem lgyInput_ends (m : Message) (s : State) : ∃ t, exec (.lgyInput m) s = .next t ∧ EndsInOrder s t := by
  refine ⟨_, rfl, withUser_ends m s _ fun l u => EndsWithSubmit.inOrder ?_⟩
  split
  · exact (ends_ignoreMessage s).withSubmit
  · split
    · exact (ends_ignoreMessage s).withSubmit
    · dsimp only
      split
      · exact commitChild_ends u _ s
      · exact ite_ignore_ends (decodeChildDrums_ends u _ s)

/-- Every level-3 row ends the step with its sink operations in order. -/
theorem report_row {i : Instr} (hl : i.level = .report) (s : State) : ∃ t, exec i s = .next t ∧ EndsInOrder s t := by
  cases i with
  | inputGtr m | ghlInputGhl m | inputPad m => exact ⟨_, rfl, (ite_ignore_ends (commit_ends _ s)).inOrder⟩
  | inputDrm m => exact ⟨_, rfl, (ite_ignore_ends (decodeDrums_ends _ s)).inOrder⟩
  | inputFb m => exact (inputFb_ends m s).imp fun _ h => h.imp_right EndsWithSubmit.inOrder
  | keystrokeGuide m => exact (keystrokeGuide_ends m s).imp fun _ h => h.imp_right EndsWithSubmit.inOrder
  | lgyConnect m => exact lgyConnect_ends m s
  | lgyDisconnect m => exact lgyDisconnect_ends m s
  | lgyInput m => exact lgyInput_ends m s
  | noop m => exact ⟨_, rfl, (ends_ignoreMessage s).withSubmit.inOrder⟩
  | _ => nomatch hl

/-! ## Which rows follow -/

theorem decodeFraming_level (x : Ctx) (p : Parsed) : (decodeFraming x p).level = .framing := by
  unfold decodeFraming
  repeat' split
  all_goals rfl

theorem decodeMessage_level (c : Cfg) (m : Message) : (decodeMessage c m).level = .dispatch := by
  unfold decodeMessage
  repeat' split
  all_goals rfl

theorem decodeReport_level (c : Cfg) (k : Kind) (m : Message) : (decodeReport c k m).level = .report := by
  unfold decodeReport decodeLegacy
  repeat' split
  all_goals rfl

/-- A Fallback's message is a guide key event or a report to sniff (rule R240). -/
theorem decodeReport_fallback (c : Cfg) (m : Message) :
    decodeReport c .fallback m = .keystrokeGuide m ∨ decodeReport c .fallback m = .inputFb m := by
  by_cases hm : m.cmd = c.cmd.keystroke <;> simp [decodeReport, hm]

theorem runNext_of_reported {t : State} (h : Reported t) : runNext t = .next t := by
  simp [runNext, nextInstr, h.1]

theorem runNext_of_message {t : State} {m : Message} (h : t.work.stage = .message m) :
    runNext t = exec (decodeMessage t.cfg m) t := by
  simp [runNext, nextInstr, h]

theorem runNext_of_report {t : State} {m : Message} (h : t.work.stage = .report m) :
    runNext t = exec (decodeReport t.cfg t.cur.mapper.kind m) t := by
  simp [runNext, nextInstr, h]

/-- What follows a level-2 row ends the step, the operations of both in order. -/
theorem runNext_of_dispatchOutcome {n : Nat} {s t : State} (h : DispatchOutcome n s t) :
    ∃ u, runNext t = .next u ∧ EndsInOrder s u := by
  rcases h with ⟨ops, hops, hends⟩ | ⟨m, ⟨hadds, hstage, -⟩ | ⟨⟨hadds, hstage, -⟩, hfb⟩⟩
  · exact ⟨t, runNext_of_reported hends.2, ops, hops.ordered, hends⟩
  · rw [runNext_of_report hstage]
    obtain ⟨u, hu, ops, hops, hends⟩ := report_row (decodeReport_level t.cfg t.cur.mapper.kind m) t
    exact ⟨u, hu, ops, hops, hadds.trans_ends hends⟩
  · rw [runNext_of_report hstage, hfb]
    have hrow : ∃ u, exec (decodeReport t.cfg .fallback m) t = .next u ∧ EndsWithSubmit t u := by
      rcases decodeReport_fallback t.cfg m with e | e <;> rw [e]
      · exact keystrokeGuide_ends m t
      · exact inputFb_ends m t
    obtain ⟨u, hu, ops, hops, hends⟩ := hrow
    exact ⟨u, hu, _, hops.ordered_opens_fallback n, hadds.trans_ends hends⟩

/-- The rows of a frame end the step, their operations in order. -/
theorem runRows_of_framing {n : Nat} {s : State} {i : Instr} (hl : i.level = .framing) (h : Selected n s) :
    ∃ u, runRows i s = .next u ∧ EndsInOrder s u := by
  obtain ⟨t, ht, hends | ⟨m, hadds, hstage, hsel⟩⟩ := framing_row hl h
  · have hnext := runNext_of_reported hends.2
    exact ⟨t, by simp [runRows, andThen, ht, hnext], [], ordered_nil, hends⟩
  · obtain ⟨u, hu, hout⟩ := dispatch_row (decodeMessage_level t.cfg m) hsel
    obtain ⟨v, hv, ops, hops, hends⟩ := runNext_of_dispatchOutcome hout
    exact ⟨v, by simp [runRows, andThen, ht, runNext_of_message hstage, hu, hv], ops, hops, hadds.trans_ends hends⟩

/-! ## The start of a step -/

theorem route_adds {key : Key} {s t : State} (h : route key s = some t) : Adds [] s t := by
  rcases route_cases key s with ⟨i, -, -, e⟩ | ⟨i, -, -, -, e⟩ | ⟨-, -, e⟩ <;> rw [e] at h <;> cases h
  · exact adds_nil rfl rfl
  · exact adds_nil rfl rfl

/-- How the start of a frame's step ends: it ends the step, or a level-1 row runs on the selected slot. -/
def FetchOutcome (s : State) (f : Fetched) : Prop :=
  (∃ t, f = .ended t ∧ Ends [] s t) ∨ ∃ i t n, f = .run i t ∧ i.level = .framing ∧ Selected n t ∧ Adds [] s t

theorem fetchHeader_outcome {n : Nat} {s : State} (h : Selected n s) (bytes : List Byte) :
    FetchOutcome s (fetchHeader bytes s) := by
  unfold fetchHeader
  split
  · exact .inl ⟨_, rfl, (adds_nil (t := setHdr _ s) rfl rfl).raise _ _⟩
  · refine .inr ⟨_, _, n, rfl, decodeFraming_level _ _, ?_⟩
    split
    · exact ⟨h, adds_nil rfl rfl⟩
    · exact ⟨h, adds_nil rfl rfl⟩

theorem fetchFrame_outcome (bytes : List Byte) (s : State) : FetchOutcome s (fetchFrame bytes s) := by
  unfold fetchFrame
  split
  · exact .inl ⟨_, rfl, ends_raise _ _ s⟩
  · split
    · exact .inl ⟨_, rfl, ends_raise _ _ s⟩
    · next s1 hroute =>
      obtain ⟨n, hsel⟩ := route_selected hroute
      have hadds := route_adds hroute
      rcases fetchHeader_outcome hsel bytes with ⟨t, e, hends⟩ | ⟨i, t, k, e, hl, hsel', hadds'⟩
      · exact .inl ⟨t, e, hadds.trans_ends hends⟩
      · exact .inr ⟨i, t, k, e, hl, hsel', hadds.trans hadds'⟩

/-! ## Control operations -/

theorem teardown_adds (i : Nat) (s : State) : Adds (closes i (s.slot i)) s (teardown i s) := by
  rw [teardown_eq]
  exact ⟨rfl, rfl⟩

theorem teardownAll_adds (l : List Nat) (s : State) : ∃ ops, ClosesOnly ops ∧ Adds ops s (teardownAll l s) := by
  induction l generalizing s with
  | nil => exact ⟨[], by simp [ClosesOnly], adds_nil rfl rfl⟩
  | cons i rest ih =>
    unfold teardownAll
    split
    · obtain ⟨ops, hops, hadds⟩ := ih (teardown i s)
      exact ⟨_, List.forall_mem_append.mpr ⟨closes_closesOnly i _, hops⟩, (teardown_adds i s).trans hadds⟩
    · exact ih s

theorem select_adds (i : Nat) (s : State) : Adds [] s (select i s) := adds_nil rfl rfl

theorem beginControl_adds (k : Key) (s : State) : Adds [] s (beginControl k s) := adds_nil rfl rfl

theorem reset_ends (s : State) : ∃ t, exec .reset s = .next t ∧ EndsInOrder s t := by
  obtain ⟨ops, hops, hadds⟩ := teardownAll_adds (List.range s.slots.length) (beginControl 0 s)
  exact ⟨_, rfl, ops, hops.ordered, ⟨hadds.1, hadds.2⟩, reported_finish _ _ _⟩

theorem close_ends (k : Key) (s : State) : ∃ t, exec (.close k) s = .next t ∧ EndsInOrder s t := by
  refine ⟨_, rfl, ?_⟩
  split
  · exact ⟨_, ordered_nil, (beginControl_adds k s).finish _ _⟩
  · next i _ =>
    have htorn := ((beginControl_adds k s).trans (select_adds i _)).trans (teardown_adds i _)
    exact ⟨_, (closes_closesOnly i _).ordered, by simpa using (htorn.trans (adds_setCur _ _)).finish _ _⟩

theorem sinkLost_ends (k : Key) (s : State) : ∃ t, exec (.sinkLost k) s = .next t ∧ EndsInOrder s t := by
  refine ⟨_, rfl, ?_⟩
  split
  · exact ⟨_, ordered_nil, (beginControl_adds k s).finish _ _⟩
  · next i _ =>
    split
    · exact ⟨_, ordered_nil, (beginControl_adds k s).finish _ _⟩
    · have htorn := ((beginControl_adds k s).trans (select_adds i _)).trans (teardown_adds i _)
      exact ⟨_, (closes_closesOnly i _).ordered, by simpa using (htorn.trans (adds_raiseEv _ _)).finish _ _⟩

theorem csrW1c_ends (n : Nat) (mask : BitVec 16) (s : State) :
    ∃ t, exec (.csrW1c n mask) s = .next t ∧ EndsInOrder s t := by
  refine ⟨_, rfl, [], ordered_nil, ?_⟩
  split
  · exact Adds.finish (adds_nil rfl rfl) _ _
  · exact Adds.finish (adds_nil rfl rfl) _ _

/-- A control operation that ends in a record is a row of its own. -/
theorem runRows_of_ends {s : State} {i : Instr} (h : ∃ t, exec i s = .next t ∧ EndsInOrder s t) :
    ∃ t, runRows i s = .next t ∧ EndsInOrder s t := by
  obtain ⟨t, ht, ops, hops, hends⟩ := h
  have hnext := runNext_of_reported hends.2
  exact ⟨t, by simp [runRows, andThen, ht, hnext], ops, hops, hends⟩

/-! ## The step -/

/-- The state a step starts in: its input taken, the ports cleared. -/
def stepStart (rest : List Input) (s : State) : State := clearPorts { s with inputs := rest }

theorem step_of_nil {s : State} (h : s.inputs = []) : step s = .next s := by simp [step, h]

theorem step_of_ended {s t : State} {inp : Input} {rest : List Input} (h : s.inputs = inp :: rest)
    (hf : fetch inp (stepStart rest s) = .ended t) : step s = .next (endStep t) := by
  rw [stepStart] at hf
  simp [step, h, hf]

theorem step_of_run {s t u : State} {i : Instr} {inp : Input} {rest : List Input} (h : s.inputs = inp :: rest)
    (hf : fetch inp (stepStart rest s) = .run i t) (hr : runRows i t = .next u) : step s = .next (endStep u) := by
  rw [stepStart] at hf
  simp [step, h, hf, hr, andThen]

/-- A frame's step ends with a record, its operations in order. -/
theorem step_deliver {s : State} {key : Key} {bytes : List Byte} {openOk ready : Bool} {rest : List Input}
    (h : s.inputs = .deliver key bytes openOk ready :: rest) :
    ∃ t, step s = .next (endStep t) ∧ EndsInOrder (stepStart rest s) t := by
  have hbegin : Adds [] (stepStart rest s) (beginFrame key openOk ready (stepStart rest s)) := adds_nil rfl rfl
  rcases fetchFrame_outcome bytes (beginFrame key openOk ready (stepStart rest s)) with
    ⟨t, e, hends⟩ | ⟨i, t, n, e, hl, hsel, hadds⟩
  · exact ⟨t, step_of_ended h e, [], ordered_nil, hbegin.trans_ends hends⟩
  · obtain ⟨u, hu, ops, hops, hends⟩ := runRows_of_framing hl hsel
    exact ⟨u, step_of_run h e hu, ops, hops, (hbegin.trans hadds).trans_ends hends⟩

/-- The step of a control operation that updates `LAST_*` ends with a record, its operations in order. -/
theorem step_control {s : State} {op : Nat} {key : Key} {n : Nat} {mask : BitVec 16} {rest : List Input}
    (h : s.inputs = .control op key n mask :: rest) (hk : (Input.control op key n mask).keepsLast = false) :
    ∃ t, step s = .next (endStep t) ∧ EndsInOrder (stepStart rest s) t := by
  have hrow : ∃ i, decodeControl op key n mask = some i
      ∧ ∃ t, runRows i (stepStart rest s) = .next t ∧ EndsInOrder (stepStart rest s) t := by
    match op, hk with
    | 0, _ => exact ⟨_, rfl, runRows_of_ends (reset_ends _)⟩
    | 1, _ => exact ⟨_, rfl, runRows_of_ends (close_ends key _)⟩
    | 2, _ => exact ⟨_, rfl, runRows_of_ends (sinkLost_ends key _)⟩
    | 4, _ => exact ⟨_, rfl, runRows_of_ends (csrW1c_ends n mask _)⟩
    | op + 5, hk => simp [Input.keepsLast] at hk
  obtain ⟨i, hi, t, ht, hends⟩ := hrow
  exact ⟨t, step_of_run h (by simp [fetch, hi]) ht, hends⟩

/-- `CSR_READ` and an unassigned operation: a record alone, `LAST_*` stay (rules R346, R340). -/
theorem step_keepsLast {s : State} {inp : Input} {rest : List Input} (h : s.inputs = inp :: rest)
    (hk : inp.keepsLast = true) :
    ∃ t, step s = .next (endStep t) ∧ Adds [] (stepStart rest s) t ∧ (∃ res, t.result = some res)
      ∧ t.lastCode = s.lastCode ∧ t.lastInfo = s.lastInfo ∧ t.lastSlot = s.lastSlot := by
  match inp, hk with
  | .control 3 key n mask, _ =>
    exact ⟨_, step_of_run h rfl rfl, adds_nil rfl rfl, ⟨_, rfl⟩, rfl, rfl, rfl⟩
  | .control (op + 5) key n mask, _ =>
    exact ⟨_, step_of_ended h rfl, adds_nil rfl rfl, ⟨_, rfl⟩, rfl, rfl, rfl⟩

/-- Settles O9, by the three forms of a step: a frame, a control operation that updates `LAST_*`, and one that does not. -/
theorem stepIsTotalWithOneRecord : Obligations.StepIsTotalWithOneRecord := by
  unfold Obligations.StepIsTotalWithOneRecord
  refine ⟨fun s inp rest h => ?_, fun s => step_of_nil⟩
  cases hk : inp.keepsLast with
  | true =>
    obtain ⟨t, hstep, ⟨hin, hev⟩, ⟨res, hres⟩, hlast⟩ := step_keepsLast h hk
    obtain ⟨hrank, hsub⟩ : Ordered (endStep t).events := by
      rw [endStep_events, hev]
      exact ordered_nil
    exact ⟨_, res, hstep, hin, hres, by simp, fun _ => hlast, hrank, hsub, rfl⟩
  | false =>
    have hends : ∃ t, step s = .next (endStep t) ∧ EndsInOrder (stepStart rest s) t := by
      cases inp with
      | deliver key bytes openOk ready => exact step_deliver h
      | control op key n mask => exact step_control h hk
    obtain ⟨t, hstep, ops, hops, ⟨hin, hev⟩, -, res, hres, hlast⟩ := hends
    obtain ⟨hrank, hsub⟩ : Ordered (endStep t).events := by
      rw [endStep_events, hev]
      exact hops
    exact ⟨_, res, hstep, hin, hres, fun _ => hlast, by simp, hrank, hsub, rfl⟩

end Sys2Proof.Machine
end

section
/-! The sets that the descriptor parser collects (rules R26, R217, R218, R221): what every accepting operation keeps of a
list's working values, carried through the two loops. -/

namespace Sys2Proof.Machine

/-- What a list's working values keep: no repetition, at most `max` elements, each satisfying `P`, and `cap` only with
`part`. -/
structure Acc.Bounded (max : Nat) (P : List Byte → Prop) (a : Acc) : Prop where
  nodup : a.items.Nodup
  count : a.items.length ≤ max
  each : ∀ x ∈ a.items, P x
  capPart : a.cap = true → a.part = true

variable {max : Nat} {P : List Byte → Prop} {a : Acc}

theorem Acc.bounded_empty : Acc.empty.Bounded max P := ⟨.nil, Nat.zero_le _, by simp [Acc.empty], by simp [Acc.empty]⟩

theorem Acc.Bounded.markPart (h : a.Bounded max P) : { a with part := true }.Bounded max P :=
  { h with capPart := fun _ => rfl }

theorem Acc.Bounded.cut (h : a.Bounded max P) (long : Bool) : (a.cut long).Bounded max P := by
  cases long with
  | false => exact h
  | true => exact { h with capPart := fun _ => rfl }

/-- An element is appended only if it is new and there is room for it. -/
theorem Acc.Bounded.add (h : a.Bounded max P) {x : List Byte} (hx : P x) : (a.add max x).Bounded max P := by
  obtain ⟨hnodup, hcount, heach, hcap⟩ := h
  unfold Acc.add
  split
  · exact ⟨hnodup, hcount, heach, hcap⟩
  · next hnew =>
    split
    · exact ⟨hnodup, hcount, heach, fun _ => rfl⟩
    · next hroom =>
      refine ⟨List.nodup_append.mpr ⟨hnodup, by simp, ?_⟩, ?_, ?_, hcap⟩
      · rintro y hy z hz rfl
        exact hnew (List.mem_singleton.mp hz ▸ hy)
      · simp only [List.length_append, List.length_singleton]
        omega
      · simp only [List.mem_append, List.mem_singleton]
        rintro y (hy | rfl)
        · exact heach y hy
        · exact hx

/-- Inside its bound a slice has its full length. -/
theorem slice_length_of_fits {d : List Byte} {bound p k : Nat} (hb : bound ≤ d.length) (h : fits bound p k = true) :
    (slice d p k).length = k := by
  have hfit : p + k ≤ bound := by simpa [fits] using h
  simp only [slice, List.length_take, List.length_drop]
  omega

theorem guidLoop_bounded {c : Cfg} {d : List Byte} {bound : Nat} (hb : bound ≤ d.length) (count p : Nat) {a : Acc}
    (h : a.Bounded c.dsc.maxGuids (fun x => x.length = c.dsc.guidBytes)) :
    (guidLoop c d bound count p a).Bounded c.dsc.maxGuids (fun x => x.length = c.dsc.guidBytes) := by
  induction count generalizing p a with
  | zero => exact h
  | succ count ih =>
    unfold guidLoop
    split
    · exact h.markPart
    · next hfit => exact ih _ (h.add (slice_length_of_fits hb (by simpa using hfit)))

theorem nameLoop_bounded (c : Cfg) (d : List Byte) (bound count p : Nat) {a : Acc}
    (h : a.Bounded c.dsc.maxNames (fun x => x.length ≤ c.dsc.maxNameLen)) :
    (nameLoop c d bound count p a).Bounded c.dsc.maxNames (fun x => x.length ≤ c.dsc.maxNameLen) := by
  induction count generalizing p a with
  | zero => exact h
  | succ count ih =>
    unfold nameLoop
    split
    · exact h.markPart
    · dsimp only
      split
      · exact h.markPart
      · exact ih _ ((h.cut _).add ((List.length_take_le _ _).trans (Nat.min_le_right _ _)))

/-- A list is bounded if its loop keeps the bounds: outside the loop nothing is accepted. -/
theorem parseList_bounded {d : List Byte} {t bound k : Nat} {loop : Nat → Nat → Acc → Acc}
    (h : ∀ count p, (loop count p Acc.empty).Bounded max P) : (parseList d t bound k loop).Bounded max P := by
  unfold parseList
  split
  · exact Acc.bounded_empty.markPart
  · exact Acc.bounded_empty
  · split
    · exact Acc.bounded_empty.markPart
    · exact h _ _

/-- A descriptor that is parsed answers the two lists, read inside the payload. -/
theorem dscParse_ok {c : Cfg} {d : List Byte} {g nm : List (List Byte)} {part cap : Bool}
    (h : dscParse c d = .ok g nm part cap) :
    ∃ hlen dlen, dlen ≤ d.length
      ∧ g = (parseList d hlen dlen c.dsc.entGuids (guidLoop c d dlen)).items
      ∧ nm = (parseList d hlen dlen c.dsc.entNames (nameLoop c d dlen)).items
      ∧ part = ((parseList d hlen dlen c.dsc.entGuids (guidLoop c d dlen)).part
          || (parseList d hlen dlen c.dsc.entNames (nameLoop c d dlen)).part)
      ∧ cap = ((parseList d hlen dlen c.dsc.entGuids (guidLoop c d dlen)).cap
          || (parseList d hlen dlen c.dsc.entNames (nameLoop c d dlen)).cap) := by
  unfold dscParse at h
  dsimp only at h
  split at h
  · cases h
  · split at h
    · cases h
    · next hdlen =>
      split at h
      · cases h
      · cases h
        exact ⟨_, _, Nat.le_of_not_lt hdlen, rfl, rfl, rfl, rfl⟩

end Sys2Proof.Machine

namespace Sys2Proof.Machine

/-- Settles O37, by the bounds that both loops keep. -/
theorem descriptorSetsAreBounded : Obligations.DescriptorSetsAreBounded := by
  unfold Obligations.DescriptorSetsAreBounded
  intro c d g nm part cap h
  obtain ⟨hlen, dlen, hb, rfl, rfl, rfl, rfl⟩ := dscParse_ok h
  have hguids := parseList_bounded (d := d) (t := hlen) (bound := dlen) (k := c.dsc.entGuids)
    fun count p => guidLoop_bounded (c := c) hb count p Acc.bounded_empty
  have hnames := parseList_bounded (d := d) (t := hlen) (bound := dlen) (k := c.dsc.entNames)
    fun count p => nameLoop_bounded c d dlen count p Acc.bounded_empty
  refine ⟨hguids.nodup, hguids.count, hguids.each, hnames.nodup, hnames.count, hnames.each, ?_⟩
  simp only [Bool.or_eq_true]
  exact Or.imp hguids.capPart hnames.capPart

end Sys2Proof.Machine
end

section
/-! The invariant of the block (rules R22, R25 to R31, R38, R40) by its parts: what it asks of one slot, of the table of
slots and of the state, and that each write of the model keeps it. -/

namespace Sys2Proof.Machine

/-! ## The d-pad latch, the mapper's kind, the children -/

/-- A kind that a mapper can have in this configuration (rule R27). -/
def KindOk (c : Cfg) (k : Kind) : Prop :=
  (k = .gamepad → c.hasGamepad = true) ∧ (k = .legacyDemux → c.hasLegacy = true)

/-- What rule R38 asks of a child under a mapper of kind `k`. -/
def ChildOk (k : Kind) (u : Child) : Prop :=
  u.kind = .none ∨ ((u.kind = .guitar ∨ u.kind = .drums) ∧ k = .legacyDemux ∧ latchOk u.prevMask u.latched)

/-- Children that were disposed are in order under any mapper. -/
theorem childOk_of_disposed (k : Kind) (l : List Child) :
    ∀ u ∈ l.map (fun u => { u with kind := .none }), ChildOk k u :=
  List.forall_mem_map.mpr fun _ _ => .inl rfl

theorem latchOk_zero : latchOk 0 0 := by decide

theorem latchOk_yellowBit : ∀ m : BitVec 2, m &&& yellowBit ≠ 0#2 → latchOk m yellowBit := by decide

theorem latchOk_blueBit : ∀ m : BitVec 2, m ≠ 0#2 → ¬ m &&& yellowBit ≠ 0#2 → latchOk m blueBit := by decide

theorem latchOk_kept : ∀ m l : BitVec 2, l ≠ 3#2 → l &&& m ≠ 0#2 → latchOk m (l &&& m) := by decide

/-- A new mask keeps the latch in form: unchanged under the same mask, empty under the empty one, else the old bit if the
mask still has it, or a bit of the mask chosen anew (rule R263). -/
theorem latchOk_dpadLatch (m : BitVec 2) {p l : BitVec 2} (h : latchOk p l) : latchOk m (dpadLatch m p l) := by
  unfold dpadLatch
  split
  · next hm => exact hm ▸ h
  · split
    · next hm =>
      rw [hm]
      exact latchOk_zero
    · next hm =>
      dsimp only
      split
      · split
        · next hy => exact latchOk_yellowBit m hy
        · next hy => exact latchOk_blueBit m hm hy
      · next hkept => exact latchOk_kept m l h.1 hkept

theorem ChildOk.out {k : Kind} {u : Child} (h : ChildOk k u) (o : Out) : ChildOk k { u with out := o } := h

theorem ChildOk.latch {k : Kind} {u : Child} (h : ChildOk k u) (m : BitVec 2) :
    ChildOk k { u with prevMask := m, latched := dpadLatch m u.prevMask u.latched } :=
  h.imp_right fun ⟨hkind, hlegacy, hlatch⟩ => ⟨hkind, hlegacy, latchOk_dpadLatch m hlatch⟩

/-- Every entry of a well-formed identifier table names a kind that exists (rule R5). -/
theorem kindOk_of_mem_guidTable {c : Cfg} {e : GuidEntry} (hwf : c.wf = true) (he : e ∈ c.guidTable) :
    KindOk c e.kind := by
  have htable : c.guidTableOk = true := by
    simp only [Cfg.wf, Bool.and_eq_true] at hwf
    tauto
  simp only [Cfg.guidTableOk, Bool.and_eq_true, List.all_eq_true, Bool.or_eq_true, beq_iff_eq] at htable
  obtain ⟨-, hkind⟩ := htable.2 e he
  constructor <;> intro hk <;> simpa [hk] using hkind

/-- A well-formed configuration's buffer lengths fit their registers (rule R28). -/
theorem chunkBufBytes_lt {c : Cfg} (hwf : c.wf = true) : c.chunkBufBytes < 2 ^ c.lenW := by
  simp only [Cfg.wf, Bool.and_eq_true, decide_eq_true_eq] at hwf
  tauto

/-! ## One slot -/

/-- What the invariant asks of a slot, valid or not. -/
def Slot.Sound (c : Cfg) (x : Slot) : Prop := x.shapeOk c ∧ (x.valid = true → x.ok c)

/-- `x` is the valid slot of session `k` and meets the invariant. -/
structure SessionOk (c : Cfg) (k : Key) (x : Slot) : Prop where
  valid : x.valid = true
  tag : x.tag = k
  shape : x.shapeOk c
  chunk : x.chunkOk c
  desc : x.descOk c
  mapper : x.mapperOk c

theorem SessionOk.sound {c : Cfg} {k : Key} {x : Slot} (h : SessionOk c k x) : x.Sound c :=
  ⟨h.shape, fun _ => ⟨h.chunk, h.desc, h.mapper⟩⟩

theorem Slot.Sound.session {c : Cfg} {x : Slot} (h : x.Sound c) (hv : x.valid = true) : SessionOk c x.tag x := by
  obtain ⟨hshape, hok⟩ := h
  obtain ⟨hchunk, hdesc, hmapper⟩ := hok hv
  exact ⟨hv, rfl, hshape, hchunk, hdesc, hmapper⟩

theorem Slot.Sound.invalidate {c : Cfg} {x : Slot} (h : x.Sound c) : Slot.Sound c { x with valid := false } :=
  ⟨h.1, fun hv => nomatch hv⟩

/-- A torn-down slot has no mapper and, in whatever mode it was, no live child (rule R197). -/
theorem Slot.Sound.torn {c : Cfg} {x : Slot} (h : x.Sound c) : x.torn.Sound c := by
  obtain ⟨⟨hcb, hbelow, hseq, hdecl, hrecv, hkids⟩, hok⟩ := h
  refine ⟨⟨hcb, hbelow, hseq, hdecl, hrecv, ?_⟩, fun hv => ?_⟩
  · rw [← hkids]
    unfold Slot.torn
    split <;> simp
  · obtain ⟨hchunk, hdesc, -, -, hlatch, hchildren⟩ := hok hv
    refine ⟨hchunk, hdesc, by simp, by simp, hlatch, ?_⟩
    unfold Slot.torn
    split
    · exact childOk_of_disposed _ _
    · next hk => exact fun u hu => (hchildren u hu).imp_right fun hlive => absurd hlive.2.1 hk

/-- An allocated slot is the session of its key (rules R46, R131). -/
theorem Slot.Sound.allocated {c : Cfg} {x : Slot} (h : x.Sound c) (k : Key) (draw : Nat) :
    SessionOk c k (allocatedSlot c k draw x) where
  valid := rfl
  tag := rfl
  shape := allocatedSlot_shape c k draw x h.1
  chunk := fun hopen => nomatch hopen
  desc := ⟨fun _ => ⟨rfl, rfl⟩, fun _ => ⟨rfl, rfl, rfl⟩, .nil, Nat.zero_le _, nofun, .nil, Nat.zero_le _, nofun⟩
  mapper := ⟨nofun, nofun, latchOk_zero, childOk_of_disposed _ _⟩

section
variable {c : Cfg} {k : Key} {x : Slot}

theorem SessionOk.idle (h : SessionOk c k x) : SessionOk c k { x with cstate := .idle } :=
  { h with chunk := fun hopen => nomatch hopen }

/-- A start packet opens a sequence whose total fits the buffer (rule R152). -/
theorem SessionOk.startChunk (h : SessionOk c k x) (hwf : c.wf = true) {total : Nat} (ht : total ≤ c.chunkBufBytes) :
    SessionOk c k { x with cstate := .accum, declaredLen := total, receivedLen := 0 } := by
  obtain ⟨hcb, hbelow, hseq, -, -, hkids⟩ := h.shape
  have hlt : total < 2 ^ c.lenW := ht.trans_lt (chunkBufBytes_lt hwf)
  exact { h with
    shape := ⟨hcb, hbelow, hseq, hlt, Nat.two_pow_pos _, hkids⟩
    chunk := fun _ => ⟨Nat.zero_le _, ht, fun a ha => absurd ha (Nat.not_lt_zero a)⟩ }

/-- A packet appended at the cursor and inside the declared total is written up to the new cursor (rule R155). -/
theorem SessionOk.appendChunk (h : SessionOk c k x) (hopen : x.cstate = .accum) {p : List Byte}
    (hp : x.receivedLen + p.length ≤ x.declaredLen) :
    SessionOk c k { x with
      cb := Memory.write x.cb x.receivedLen p, receivedLen := x.receivedLen + p.length } := by
  obtain ⟨hcb, hbelow, hseq, hdecl, -, hkids⟩ := h.shape
  obtain ⟨-, hcap, hwritten⟩ := h.chunk hopen
  refine { h with
    shape := ⟨Memory.write_wf _ _ _ hcb, Memory.write_below _ _ _ _ hbelow (hp.trans hcap), hseq, hdecl,
      hp.trans_lt hdecl, hkids⟩
    chunk := fun _ => ⟨hp, hcap, fun a ha => ?_⟩ }
  rw [Memory.read_write]
  split
  · next hin => simpa using (by omega : a - x.receivedLen < p.length)
  · next hout =>
    have ha : a < x.receivedLen + p.length := ha
    exact hwritten a (by omega)

theorem SessionOk.remember (h : SessionOk c k x) (cmd seq : Byte) :
    SessionOk c k { x with seqTab := Memory.write x.seqTab cmd.toNat [seq] } := by
  obtain ⟨hcb, hbelow, ⟨hseq, hseqBelow⟩, hlens⟩ := h.shape
  exact { h with
    shape := ⟨hcb, hbelow, ⟨Memory.write_wf _ _ _ hseq, Memory.write_below _ _ _ _ hseqBelow cmd.isLt⟩, hlens⟩ }

theorem SessionOk.arrival (h : SessionOk c k x) (vid pid : Half) :
    SessionOk c k { x with vid := vid, pid := pid, arrivalSeen := true } :=
  { h with desc := ⟨nofun, h.desc.2⟩ }

/-- A parsed descriptor's two sets are stored within their bounds (rules R26, R222). -/
theorem SessionOk.descriptor (h : SessionOk c k x) {d : List Byte} {g nm : List (List Byte)} {part cap : Bool}
    (hd : dscParse c d = .ok g nm part cap) :
    SessionOk c k { x with guids := g, names := nm, descPartial := part, descSeen := true } := by
  obtain ⟨hg, hgCount, hgLen, hn, hnCount, hnLen, -⟩ := descriptorSetsAreBounded c d g nm part cap hd
  exact { h with desc := ⟨h.desc.1, nofun, hg, hgCount, hgLen, hn, hnCount, hnLen⟩ }

theorem SessionOk.mapped (h : SessionOk c k x) {kind : Kind} (hk : KindOk c kind) (am : AxisMode) (pm : PickupMode) :
    SessionOk c k (x.mapped kind am pm) := by
  obtain ⟨hcb, hbelow, hseq, hdecl, hrecv, hkids⟩ := h.shape
  exact { h with
    shape := ⟨hcb, hbelow, hseq, hdecl, hrecv, by simpa [Slot.mapped] using hkids⟩
    mapper := ⟨hk.1, hk.2, latchOk_zero, childOk_of_disposed _ _⟩ }

theorem SessionOk.warned (h : SessionOk c k x) : SessionOk c k { x with fbWarned := true } := { h with }

theorem SessionOk.out (h : SessionOk c k x) (o : Out) : SessionOk c k { x with out := o } := { h with }

theorem SessionOk.latch (h : SessionOk c k x) (m : BitVec 2) :
    SessionOk c k { x with prevMask := m, latched := dpadLatch m x.prevMask x.latched } := by
  obtain ⟨hpad, hlegacy, hlatch, hchildren⟩ := h.mapper
  exact { h with mapper := ⟨hpad, hlegacy, latchOk_dpadLatch m hlatch, hchildren⟩ }

theorem SessionOk.setChild (h : SessionOk c k x) (u : Nat) {y : Child} (hy : ChildOk x.mapper.kind y) :
    SessionOk c k { x with children := x.children.set u y } := by
  obtain ⟨hcb, hbelow, hseq, hdecl, hrecv, hkids⟩ := h.shape
  obtain ⟨hpad, hlegacy, hlatch, hchildren⟩ := h.mapper
  refine { h with
    shape := ⟨hcb, hbelow, hseq, hdecl, hrecv, by simpa using hkids⟩
    mapper := ⟨hpad, hlegacy, hlatch, fun z hz => ?_⟩ }
  rcases List.mem_or_eq_of_mem_set hz with hz | rfl
  · exact hchildren z hz
  · exact hy

end

/-! ## The table of slots -/

/-- Two slots are not valid sessions of one key (rule R22). -/
def TagsDiffer (x y : Slot) : Prop := x.valid = true → y.valid = true → x.tag ≠ y.tag

theorem TagsDiffer.symm {x y : Slot} (h : TagsDiffer x y) : TagsDiffer y x := fun hy hx => (h hx hy).symm

theorem validTags_nodup_iff (slots : List Slot) : (validTags slots).Nodup ↔ slots.Pairwise TagsDiffer := by
  rw [validTags, List.Nodup, List.pairwise_map, List.pairwise_filter]
  rfl

/-- A slot may be replaced by one whose tag no other valid slot has. -/
theorem validTags_set_nodup {slots : List Slot} (h : (validTags slots).Nodup) (i : Nat) {x : Slot}
    (hx : ∀ (j : Nat) (hj : j < slots.length), i ≠ j → TagsDiffer x slots[j]) : (validTags (slots.set i x)).Nodup := by
  rw [validTags_nodup_iff, List.pairwise_iff_getElem] at *
  intro a b ha hb hab
  rw [List.length_set] at ha hb
  rw [List.getElem_set, List.getElem_set]
  split
  · next hia =>
    rw [if_neg (by omega)]
    exact hx b hb (by omega)
  · next hia =>
    split
    · exact (hx a ha hia).symm
    · exact h a b ha hb hab

/-- A slot that keeps its tag, and is valid only if it was, has a tag of its own still. -/
theorem tagsDiffer_of_nodup {slots : List Slot} (h : (validTags slots).Nodup) {i : Nat} (hi : i < slots.length) {x : Slot}
    (hv : x.valid = true → slots[i].valid = true) (ht : x.tag = slots[i].tag) (j : Nat) (hj : j < slots.length)
    (hij : i ≠ j) : TagsDiffer x slots[j] := by
  rw [validTags_nodup_iff, List.pairwise_iff_getElem] at h
  intro hx hy
  rw [ht]
  rcases Nat.lt_or_gt_of_ne hij with hlt | hgt
  · exact h i j hi hj hlt (hv hx) hy
  · exact (h j i hj hi hgt hy (hv hx)).symm

theorem validTags_nodup_of_invalid {slots : List Slot} (h : ∀ x ∈ slots, x.valid = false) : (validTags slots).Nodup := by
  have hnone : slots.filter (·.valid) = [] := List.filter_eq_nil_iff.mpr (by simpa using h)
  simp [validTags, hnone]

/-! ## The state -/

/-- The invariant without the working registers: what every part of a step keeps. -/
structure State.Sound (s : State) : Prop where
  wf : s.cfg.wf = true
  count : s.slots.length = s.cfg.nSess
  slots : ∀ x ∈ s.slots, x.Sound s.cfg
  tags : (validTags s.slots).Nodup
  reserved : s.evflags &&& 0xFE00#16 = 0#16

theorem inv_iff_sound (s : State) : s.Inv ↔ s.Sound ∧ s.work = Work.idle := by
  constructor
  · rintro ⟨hwf, hcount, hshape, hok, htags, hres, hwork⟩
    exact ⟨⟨hwf, hcount, fun x hx => ⟨hshape x hx, hok x hx⟩, htags, hres⟩, hwork⟩
  · rintro ⟨⟨hwf, hcount, hslots, htags, hres⟩, hwork⟩
    exact ⟨hwf, hcount, fun x hx => (hslots x hx).1, fun x hx => (hslots x hx).2, htags, hres, hwork⟩

namespace State.Sound

variable {s t : State}

theorem congr (h : s.Sound) (hc : t.cfg = s.cfg) (hs : t.slots = s.slots) (he : t.evflags = s.evflags) : t.Sound :=
  ⟨hc ▸ h.wf, by rw [hs, hc, h.count], by rw [hs, hc]; exact h.slots, hs ▸ h.tags, he ▸ h.reserved⟩

/-- The flags a step can raise are none of the reserved ones (rule R40). -/
theorem raiseEv (h : s.Sound) (e : Ev) : (raiseEv e s).Sound := by
  refine ⟨h.wf, h.count, h.slots, h.tags, ?_⟩
  have he : e.mask &&& 0xFE00#16 = 0#16 := by cases e <;> decide
  rw [raiseEv_evflags, BitVec.and_or_distrib_right, h.reserved, he]
  rfl

theorem selected (h : s.Sound) (i : Nat) : (select i s).Sound := h.congr rfl rfl rfl

theorem finish (h : s.Sound) (c : Code) (v : Nat) : (finish c v s).Sound := h.congr rfl rfl rfl

theorem raise (h : s.Sound) (c : Code) (v : Nat) : (raise c v s).Sound := by
  have hclass : (raiseClass c.cls s).Sound := by
    cases c.cls with
    | invalid | unsupported => exact h.raiseEv _
    | ok | pending | disconnected => exact h
  exact hclass.finish c v

/-- The slot a step refers to is sound, if it is one of the table. -/
theorem slot (h : s.Sound) {i : Nat} (hi : i < s.slots.length) : (s.slot i).Sound s.cfg :=
  h.slots _ (List.mem_of_getElem? (getElem?_slot hi))

/-- A slot of the table may be written if it stays sound and its tag stays its own. -/
theorem setSlot (h : s.Sound) (i : Nat) {x : Slot} (hx : x.Sound s.cfg)
    (htags : ∀ (j : Nat) (hj : j < s.slots.length), i ≠ j → TagsDiffer x s.slots[j]) : (s.setSlot i x).Sound := by
  refine ⟨h.wf, by simpa using h.count, fun y hy => ?_, validTags_set_nodup h.tags i htags, h.reserved⟩
  rcases List.mem_or_eq_of_mem_set hy with hy | rfl
  · exact h.slots y hy
  · exact hx

/-- A slot may be rewritten under its own tag. -/
theorem rewriteSlot (h : s.Sound) {i : Nat} {x : Slot} (hx : (s.slot i).Sound s.cfg → x.Sound s.cfg)
    (hv : x.valid = true → (s.slot i).valid = true) (ht : x.tag = (s.slot i).tag) : (s.setSlot i x).Sound := by
  by_cases hi : i < s.slots.length
  · have hget : s.slot i = s.slots[i] := slot_of_getElem? (List.getElem?_eq_getElem hi)
    exact h.setSlot i (hx (h.slot hi)) (tagsDiffer_of_nodup h.tags hi (hget ▸ hv) (hget ▸ ht))
  · exact h.congr rfl (List.set_eq_of_length_le (Nat.le_of_not_lt hi)) rfl

theorem teardown (h : s.Sound) (i : Nat) : (teardown i s).Sound := by
  rw [teardown_eq]
  exact (h.rewriteSlot (i := i) Slot.Sound.torn id rfl).congr rfl rfl rfl

/-- The step's slot may be closed (rule R343). -/
theorem closeCur (h : s.Sound) : (s.setCur { s.cur with valid := false }).Sound := by
  unfold State.setCur State.cur
  cases s.work.sel with
  | none => exact h
  | some i => exact h.rewriteSlot Slot.Sound.invalidate nofun rfl

end State.Sound

/-- The state after reset has no valid slot, and every slot in shape. -/
theorem resetFor_sound {c : Cfg} (hwf : c.wf = true) : (State.resetFor c).Sound := by
  have hinvalid : ∀ x ∈ (State.resetFor c).slots, x.valid = false := fun x hx => by
    rw [slot_of_reset hx, slot_resetFor_valid]
  refine ⟨hwf, by simp, fun x hx => ⟨?_, fun hv => ?_⟩, validTags_nodup_of_invalid hinvalid, by simp⟩
  · rw [slot_of_reset hx]
    exact ⟨rfl, rfl, ⟨rfl, rfl⟩, Nat.two_pow_pos _, Nat.two_pow_pos _, by simp⟩
  · exact absurd hv (by simp [hinvalid x hx])

/-- Settles O11: no slot is valid, so that only their shapes are asked for. -/
theorem resetHasInvariant : Obligations.ResetHasInvariant := by
  unfold Obligations.ResetHasInvariant
  have hreset (c : Cfg) (hwf : c.wf = true) : (State.resetFor c).Inv :=
    (inv_iff_sound _).mpr ⟨resetFor_sound hwf, rfl⟩
  exact ⟨hreset refCfg (by decide), hreset⟩

end Sys2Proof.Machine
end

section
/-! Every step keeps the invariant: the rows of a frame run on a sound state whose selected slot is a session, and leave one
such; a control operation and the start of a frame's step keep the state sound. -/

namespace Sys2Proof.Machine

/-! ## A row in progress -/

/-- The state a frame's row runs in and leaves: sound, slot `n` selected, which is the session of `k`. -/
structure Running (k : Key) (n : Nat) (s : State) : Prop where
  sound : s.Sound
  sel : Selected n s
  session : SessionOk s.cfg k (s.slot n)

/-- An outcome that goes on with the session in order. -/
def KeepsRunning (k : Key) (n : Nat) (o : Host.Outcome State Fault Refusal) : Prop := ∃ t, o = .next t ∧ Running k n t

theorem KeepsRunning.andThen {k : Key} {n : Nat} {o : Host.Outcome State Fault Refusal}
    {f : State → Host.Outcome State Fault Refusal} (h : KeepsRunning k n o)
    (hf : ∀ t, Running k n t → KeepsRunning k n (f t)) : KeepsRunning k n (andThen o f) := by
  obtain ⟨t, rfl, ht⟩ := h
  exact hf t ht

/-- The subtypes that LGY knows are those of the two child layouts (rule R302). -/
theorem kind_of_subtypeKind {l : LgyCfg} {t : Byte} {kind : Kind} (h : subtypeKind l t = some kind) :
    kind = .guitar ∨ kind = .drums := by
  unfold subtypeKind at h
  split at h
  · cases h
    exact .inl rfl
  · split at h
    · cases h
      exact .inr rfl
    · cases h

/-- Only a LegacyDemux mapper has a message connect a child (rules R240, R302). -/
theorem legacyDemux_of_decodeReport {c : Cfg} {kind : Kind} {m m' : Message}
    (h : decodeReport c kind m = .lgyConnect m') : kind = .legacyDemux := by
  by_contra hk
  unfold decodeReport at h
  rw [if_neg hk] at h
  repeat' split at h
  all_goals cases h

namespace Running

variable {k : Key} {n : Nat} {s t : State}

theorem next (h : Running k n t) : KeepsRunning k n (.next t) := ⟨t, rfl, h⟩

theorem congr (h : Running k n s) (hc : t.cfg = s.cfg) (hs : t.slots = s.slots) (he : t.evflags = s.evflags)
    (hw : t.work.sel = s.work.sel) : Running k n t := by
  obtain ⟨hsound, ⟨hsel, hlt⟩, hsession⟩ := h
  exact ⟨hsound.congr hc hs he, ⟨hw.trans hsel, hs ▸ hlt⟩, by rw [hc, slot_congr hs]; exact hsession⟩

theorem emit (h : Running k n s) (e : Event) : Running k n (emit e s) := h.congr rfl rfl rfl rfl

theorem setStage (h : Running k n s) (g : Stage) : Running k n (setStage g s) := h.congr rfl rfl rfl rfl

theorem setHdr (h : Running k n s) (hd : Option Hdr) : Running k n (setHdr hd s) := h.congr rfl rfl rfl rfl

theorem finish (h : Running k n s) (c : Code) (v : Nat) : Running k n (finish c v s) := h.congr rfl rfl rfl rfl

theorem ignoreMessage (h : Running k n s) : Running k n (ignoreMessage s) := h.finish _ _

theorem raiseEv (h : Running k n s) (e : Ev) : Running k n (raiseEv e s) := ⟨h.sound.raiseEv e, h.sel, h.session⟩

theorem raise (h : Running k n s) (c : Code) (v : Nat) : Running k n (raise c v s) := by
  have hclass : Running k n (raiseClass c.cls s) := by
    cases c.cls with
    | invalid | unsupported => exact h.raiseEv _
    | ok | pending | disconnected => exact h
  exact hclass.finish c v

theorem setSlot (h : Running k n s) {x : Slot} (hx : SessionOk s.cfg k x) : Running k n (s.setSlot n x) where
  sound := h.sound.rewriteSlot (fun _ => hx.sound) (fun _ => h.session.valid) (hx.tag.trans h.session.tag.symm)
  sel := by simpa [Selected] using h.sel
  session := by rw [slot_setSlot_same h.sel.2]; exact hx

theorem cur (h : Running k n s) : SessionOk s.cfg k s.cur := cur_of_sel h.sel.1 ▸ h.session

theorem setCur (h : Running k n s) {x : Slot} (hx : SessionOk s.cfg k x) : Running k n (s.setCur x) :=
  setCur_of_sel h.sel.1 x ▸ h.setSlot hx

/-! ## Level 1 -/

theorem dedup (h : Running k n s) (m : Message) : Running k n (dedup m s) := by
  rcases dedup_cases h.sel m with ⟨-, e⟩ | ⟨-, e⟩ <;> rw [e]
  · exact h.finish _ _
  · exact (h.setSlot (h.session.remember m.cmd m.seq)).setStage _

theorem discardChunks (h : Running k n s) : Running k n (discardChunks s) := h.setCur h.cur.idle

theorem chunkAppend (h : Running k n s) (hopen : (s.slot n).cstate = .accum) (off : Nat) (p : List Byte) :
    Running k n (chunkAppend off p s) := by
  rcases chunkAppend_cases h.sel off p with ⟨-, e⟩ | ⟨-, -, e⟩ | ⟨hoff, hp, e⟩ <;> rw [e]
  · exact (h.setSlot h.session.idle).raise _ _
  · exact (h.setSlot h.session.idle).raise _ _
  · subst hoff
    exact (h.setSlot (h.session.appendChunk hopen hp)).raise _ _

theorem chunkTerminate (h : Running k n s) (hd : Hdr) (x : Nat) : Running k n (chunkTerminate hd x s) := by
  rcases chunkTerminate_cases h.sel hd x with ⟨-, e⟩ | ⟨-, e⟩ <;> rw [e]
  · exact (h.setSlot h.session.idle).raise _ _
  · exact (h.setSlot h.session.idle).dedup _

theorem chkS (h : Running k n s) (hd : Hdr) (x : Nat) (p : List Byte) : KeepsRunning k n (exec (.chkS hd x p) s) := by
  refine ⟨_, rfl, ?_⟩
  split
  · exact h.discardChunks.raise _ _
  · split
    · exact h.discardChunks.raise _ _
    · next hcap =>
      refine (h.setCur (h.cur.startChunk h.sound.wf (Nat.le_of_not_lt hcap))).chunkAppend ?_ 0 p
      rw [setCur_of_sel h.sel.1, slot_setSlot_same h.sel.2]

theorem framing_row (h : Running k n s) {i : Instr} (hl : i.level = .framing) : KeepsRunning k n (exec i s) := by
  have hopen : ¬ s.cur.cstate = .idle → (s.slot n).cstate = .accum := by
    rw [cur_of_sel h.sel.1]
    cases (s.slot n).cstate <;> simp
  cases i with
  | msg hd p => exact (h.dedup _).next
  | chkNop hd => exact (h.finish _ _).next
  | chkS hd x p => exact h.chkS hd x p
  | chkE hd x =>
    refine ⟨_, rfl, ?_⟩
    split
    · exact h.raise _ _
    · next hidle =>
      split
      · exact h.chunkTerminate hd x
      · exact h.chunkAppend (hopen hidle) x []
  | chkD hd x p =>
    refine ⟨_, rfl, ?_⟩
    split
    · exact h.raise _ _
    · next hidle => exact h.chunkAppend (hopen hidle) x p
  | _ => nomatch hl

/-! ## Level 2 -/

theorem construct (h : Running k n s) {kind : Kind} (hk : KindOk s.cfg kind) (am : AxisMode) (pm : PickupMode) :
    Running k n (construct kind am pm s) := by
  rcases construct_cases h.sel kind am pm with ⟨-, e⟩ | ⟨-, e⟩ <;> rw [e]
  · exact h.raiseEv _
  · exact (h.setSlot (h.session.mapped hk am pm)).congr rfl rfl rfl rfl

theorem constructFallback (h : Running k n s) : Running k n (Machine.construct .fallback .full .continuous s) :=
  h.construct (kind := .fallback) ⟨nofun, nofun⟩ _ _

theorem factory (h : Running k n s) : Running k n (factory s) := by
  rcases factory_cases s with ⟨e, hmatch, eq⟩ | ⟨-, eq⟩ <;> rw [eq]
  · have he : e ∈ guidMatches s.cfg s.cur.guids := by simp [hmatch]
    exact h.construct (kindOk_of_mem_guidTable h.sound.wf (List.mem_of_mem_filter he)) _ _
  · exact (h.raiseEv _).constructFallback

theorem selectMapper (h : Running k n s) : Running k n (selectMapper s) := by
  have hsel : Running k n (if s.cur.mapper.kind = .none then Machine.factory s else s) := by
    split
    · exact h.factory
    · exact h
  unfold Machine.selectMapper
  dsimp only
  generalize (if s.cur.mapper.kind = .none then Machine.factory s else s) = s1 at hsel ⊢
  split
  · exact hsel.raise _ _
  · exact hsel.finish _ _

theorem dscCommit (h : Running k n s) {d : List Byte} {g nm : List (List Byte)} {part cap : Bool}
    (hd : dscParse s.cfg d = .ok g nm part cap) : Running k n (dscCommit g nm part cap s) := by
  have hset := h.setCur (h.cur.descriptor hd)
  cases part <;> cases cap
  · exact hset
  · exact hset.raiseEv _
  · exact hset.raiseEv _
  · exact (hset.raiseEv _).raiseEv _

theorem lazyFallback (h : Running k n s) : Running k n (lazyFallback s) := by
  have hbuilt := h.constructFallback
  unfold Machine.lazyFallback
  dsimp only
  split
  · exact hbuilt
  · split
    · exact hbuilt
    · exact (hbuilt.setCur hbuilt.cur.warned).raiseEv _

theorem forward (h : Running k n s) (m : Message) : Running k n (forward m s) := by
  have hmapper : Running k n (if s.cur.mapper.kind = .none then Machine.lazyFallback s else s) := by
    split
    · exact h.lazyFallback
    · exact h
  unfold Machine.forward
  dsimp only
  generalize (if s.cur.mapper.kind = .none then Machine.lazyFallback s else s) = s1 at hmapper ⊢
  split
  · exact hmapper.raise _ _
  · split
    · exact hmapper.raise _ _
    · exact hmapper.setStage _

theorem dispatch_row (h : Running k n s) {i : Instr} (hl : i.level = .dispatch) : KeepsRunning k n (exec i s) := by
  cases i with
  | ack m | auth m | serial m => exact (h.finish _ _).next
  | arrival m =>
    refine ⟨_, rfl, ?_⟩
    split
    · exact h.finish _ _
    · split
      · exact h.raise _ _
      · exact (h.setCur (h.cur.arrival _ _)).finish _ _
  | descriptor m =>
    refine ⟨_, rfl, ?_⟩
    split
    · exact h.finish _ _
    · split
      · exact h.raise _ _
      · next hparse => exact (h.dscCommit hparse).selectMapper
  | keystroke m | input m | ghlInput m | other m => exact (h.forward m).next
  | _ => nomatch hl

/-! ## Level 3 -/

theorem commit (h : Running k n s) (o : Out) : Running k n (commit o s) :=
  ((h.setCur (h.cur.out _)).emit _).finish _ _

theorem decodeDrums (h : Running k n s) (d : List Byte) : Running k n (decodeDrums d s) :=
  (h.setCur (h.cur.latch _)).commit _

theorem runLayout (h : Running k n s) (kind : Kind) (d : List Byte) : Running k n (runLayout kind d s) := by
  cases kind with
  | guitar | sixFret | gamepad => exact h.commit _
  | drums => exact h.decodeDrums d
  | none | fallback | legacyDemux => exact h.ignoreMessage

theorem keystrokeGuide (h : Running k n s) (m : Message) : KeepsRunning k n (exec (.keystrokeGuide m) s) := by
  refine ⟨_, rfl, ?_⟩
  split
  · exact h.ignoreMessage
  · split
    · exact h.ignoreMessage
    · exact ((h.setCur (h.cur.out _)).emit _).finish _ _

/-- A child of the session is in order, and so is what is read outside the table. -/
theorem childOk (h : Running k n s) (u : Nat) : ChildOk s.cur.mapper.kind (s.child u) := by
  obtain ⟨-, -, -, hchildren⟩ := h.cur.mapper
  rw [State.child, List.getD_eq_getElem?_getD]
  cases hu : s.cur.children[u]? with
  | none => exact .inl rfl
  | some y => exact hchildren y (List.mem_of_getElem? hu)

theorem setChild (h : Running k n s) (u : Nat) {y : Child} (hy : ChildOk s.cur.mapper.kind y) :
    Running k n (s.setChild u y) ∧ (s.setChild u y).cur.mapper = s.cur.mapper :=
  ⟨h.setCur (h.cur.setChild u hy), by rw [State.setChild, cur_setCur h.sel]⟩

theorem disposeChild (h : Running k n s) (u : Nat) :
    Running k n (disposeChild u s) ∧ (Machine.disposeChild u s).cur.mapper = s.cur.mapper := by
  obtain ⟨hset, hmapper⟩ := h.setChild u (y := { s.child u with kind := .none }) (.inl rfl)
  unfold Machine.disposeChild
  split
  · exact ⟨h, rfl⟩
  · exact ⟨hset.emit _, hmapper⟩

theorem connectChild (h : Running k n s) (u : Nat) {kind : Kind} (hk : kind = .guitar ∨ kind = .drums)
    (hlegacy : s.cur.mapper.kind = .legacyDemux) : Running k n (connectChild u kind s) := by
  obtain ⟨hdisposed, hmapper⟩ := h.disposeChild u
  have hchild : ChildOk (Machine.disposeChild u s).cur.mapper.kind
      { kind := kind, prevMask := 0, latched := 0, out := Out.zero } := .inr ⟨hk, hmapper ▸ hlegacy, latchOk_zero⟩
  unfold Machine.connectChild
  dsimp only
  split
  · exact (hdisposed.raiseEv _).finish _ _
  · exact ((hdisposed.setChild u hchild).1.emit _).finish _ _

theorem commitChild (h : Running k n s) (u : Nat) (o : Out) : Running k n (commitChild u o s) :=
  ((h.setChild u ((h.childOk u).out _)).1.emit _).finish _ _

theorem decodeChildDrums (h : Running k n s) (u : Nat) (d : List Byte) : Running k n (decodeChildDrums u d s) :=
  (h.setChild u ((h.childOk u).latch _)).1.commitChild u _

theorem withUser (h : Running k n s) (m : Message) {f : LgyCfg → Nat → State} (hf : ∀ l u, Running k n (f l u)) :
    Running k n (withUser m s f) := by
  rcases withUser_cases m s f with ⟨-, e⟩ | ⟨l, -, ⟨-, e⟩ | ⟨-, -, e⟩ | ⟨-, -, e⟩⟩ <;> rw [e]
  · exact h.ignoreMessage
  · exact h.ignoreMessage
  · exact (h.raiseEv _).ignoreMessage
  · exact hf l _

theorem lgyConnect (h : Running k n s) (hlegacy : s.cur.mapper.kind = .legacyDemux) (m : Message) :
    KeepsRunning k n (exec (.lgyConnect m) s) := by
  refine ⟨_, rfl, h.withUser m fun l u => ?_⟩
  split
  · exact h.ignoreMessage
  · split
    · exact (h.raiseEv _).finish _ _
    · next kind hkind => exact h.connectChild u (kind_of_subtypeKind hkind) hlegacy

theorem lgyInput (h : Running k n s) (m : Message) : KeepsRunning k n (exec (.lgyInput m) s) := by
  refine ⟨_, rfl, h.withUser m fun l u => ?_⟩
  split
  · exact h.ignoreMessage
  · split
    · exact h.ignoreMessage
    · dsimp only
      split
      · exact h.commitChild u _
      · split
        · exact h.decodeChildDrums u _
        · exact h.ignoreMessage

/-- A report that a layout takes or, of another length, ignores (rule R241). -/
theorem ite_ignore (h : Running k n s) {p : Prop} [Decidable p] (ht : Running k n t) :
    Running k n (if p then t else Machine.ignoreMessage s) := by
  split
  · exact ht
  · exact h.ignoreMessage

/-- The level-3 rows; a child is connected under a LegacyDemux mapper only (rule R302). -/
theorem report_row (h : Running k n s) {i : Instr} (hl : i.level = .report)
    (hlegacy : ∀ m, i = .lgyConnect m → s.cur.mapper.kind = .legacyDemux) : KeepsRunning k n (exec i s) := by
  cases i with
  | inputGtr m | ghlInputGhl m | inputPad m => exact (h.ite_ignore (h.commit _)).next
  | inputDrm m => exact (h.ite_ignore (h.decodeDrums _)).next
  | inputFb m =>
    refine ⟨_, rfl, ?_⟩
    split
    · exact h.runLayout _ _
    · exact h.ignoreMessage
  | keystrokeGuide m => exact h.keystrokeGuide m
  | lgyConnect m => exact h.lgyConnect (hlegacy m rfl) m
  | lgyDisconnect m => exact ⟨_, rfl, h.withUser m fun l u => (h.disposeChild u).1.finish _ _⟩
  | lgyInput m => exact h.lgyInput m
  | noop m => exact h.ignoreMessage.next
  | _ => nomatch hl

/-! ## The rows of a frame -/

theorem runNext (h : Running k n s) : KeepsRunning k n (runNext s) := by
  unfold Machine.runNext nextInstr
  cases s.work.stage with
  | done => exact h.next
  | message m => exact h.dispatch_row (decodeMessage_level _ _)
  | report m => exact h.report_row (decodeReport_level _ _ _) fun m' => legacyDemux_of_decodeReport

theorem runRows (h : Running k n s) {i : Instr} (hl : i.level = .framing) : KeepsRunning k n (runRows i s) :=
  ((h.framing_row hl).andThen fun _ => runNext).andThen fun _ => runNext

end Running

end Sys2Proof.Machine
end

section
/-! The start of a frame's step, the control operations and the step itself keep the invariant. -/

namespace Sys2Proof.Machine

/-! ## The start of a frame's step -/

/-- The session that ROUTE finds or allocates is in order (rules R46, R131). -/
theorem State.Sound.route {key : Key} {s t : State} (h : s.Sound) (hr : route key s = some t) :
    ∃ n, Running key n t := by
  rcases route_cases key s with ⟨i, hfind, hi, e⟩ | ⟨i, hnone, -, hi, e⟩ | ⟨-, -, e⟩ <;> rw [e] at hr <;> cases hr
  · obtain ⟨x, hx, hv, rfl⟩ := findKey_some hfind
    have hslot : s.slot i = x := slot_of_getElem? hx
    exact ⟨i, h.selected i, ⟨rfl, hi⟩, hslot ▸ (hslot ▸ h.slot hi : x.Sound s.cfg).session hv⟩
  · have hnew := (h.slot hi).allocated key s.draws
    have halloc : (s.setSlot i (allocatedSlot s.cfg key s.draws (s.slot i))).Sound :=
      h.setSlot i hnew.sound fun j hj _ _ hv => (findKey_none.mp hnone _ (List.getElem_mem hj) hv).symm
    refine ⟨i, halloc.congr rfl rfl rfl, ⟨rfl, by simpa [allocate] using hi⟩, ?_⟩
    have hslot : (select i (allocate i key s)).slot i = allocatedSlot s.cfg key s.draws (s.slot i) :=
      slot_setSlot_same hi _
    rw [hslot]
    exact hnew

/-- How the start of a frame's step leaves a sound state: the step ended, or a level-1 row to run on a session. -/
def FetchSound (f : Fetched) : Prop :=
  (∃ t, f = .ended t ∧ t.Sound) ∨ ∃ i t k n, f = .run i t ∧ i.level = .framing ∧ Running k n t

theorem Running.fetchHeader {k : Key} {n : Nat} {s : State} (h : Running k n s) (bytes : List Byte) :
    FetchSound (fetchHeader bytes s) := by
  unfold Machine.fetchHeader
  split
  · exact .inl ⟨_, rfl, ((h.setHdr _).raise _ _).sound⟩
  · refine .inr ⟨_, _, k, n, rfl, decodeFraming_level _ _, ?_⟩
    split
    · exact (h.setHdr _).raiseEv _
    · exact h.setHdr _

theorem State.Sound.fetchFrame {s : State} (h : s.Sound) (bytes : List Byte) : FetchSound (fetchFrame bytes s) := by
  unfold Machine.fetchFrame
  split
  · exact .inl ⟨_, rfl, h.raise _ _⟩
  · split
    · exact .inl ⟨_, rfl, h.raise _ _⟩
    · next s1 hroute =>
      obtain ⟨n, hrun⟩ := h.route hroute
      exact hrun.fetchHeader bytes

/-! ## Control operations -/

theorem State.Sound.teardownAll {s : State} (h : s.Sound) (l : List Nat) : (teardownAll l s).Sound := by
  induction l generalizing s with
  | nil => exact h
  | cons i rest ih =>
    unfold Machine.teardownAll
    split
    · exact ih (h.teardown i)
    · exact ih h

/-- RESET leaves no valid slot, and every slot in shape (rules R46, R372). -/
theorem State.Sound.globalReset {s : State} (h : s.Sound) : (globalReset s).Sound := by
  obtain ⟨hlen, hinvalid, -, hshape⟩ := resetSlots_spec s.cfg s.draws 0 s.slots
  refine ⟨h.wf, hlen.trans h.count, fun x hx => ⟨?_, fun hv => ?_⟩, validTags_nodup_of_invalid hinvalid, ?_⟩
  · exact hshape (fun y hy => (h.slots y hy).1) x hx
  · exact absurd hv (by simp [hinvalid x hx])
  · simp [Machine.globalReset]

/-- A write of a one keeps the reserved bits clear: it only clears (rule R345). -/
theorem clearEv_reserved {e : BitVec 16} (h : e &&& 0xFE00#16 = 0#16) (mask : BitVec 16) :
    clearEv e mask &&& 0xFE00#16 = 0#16 := by
  rw [clearEv, BitVec.and_assoc, BitVec.and_comm (~~~_), ← BitVec.and_assoc, h, BitVec.zero_and]

/-- The step has ended, in a sound state. -/
def EndedSound (t : State) : Prop := t.Sound ∧ t.work.stage = .done

theorem State.Sound.ended {s : State} (h : s.Sound) (c : Code) (v : Nat) : EndedSound (Machine.finish c v s) :=
  ⟨h.finish c v, rfl⟩

/-- Every control operation ends the step in a sound state. -/
theorem State.Sound.control_row {s : State} (h : s.Sound) {i : Instr} (hl : i.level = .control) :
    ∃ t, exec i s = .next t ∧ EndedSound t := by
  have hbegin (k : Key) : (beginControl k s).Sound := h.congr rfl rfl rfl
  have htorn (k : Key) (i : Nat) : (Machine.teardown i (select i (beginControl k s))).Sound :=
    ((hbegin k).selected i).teardown i
  cases i with
  | reset => exact ⟨_, rfl, ((hbegin 0).teardownAll _).globalReset.ended _ _⟩
  | close k =>
    refine ⟨_, rfl, ?_⟩
    split
    · exact (hbegin k).ended _ _
    · next i _ => exact (htorn k i).closeCur.ended _ _
  | sinkLost k =>
    refine ⟨_, rfl, ?_⟩
    split
    · exact (hbegin k).ended _ _
    · next i _ =>
      split
      · exact (hbegin k).ended _ _
      · exact ((htorn k i).raiseEv _).ended _ _
  | csrRead n => exact ⟨_, rfl, (hbegin 0).congr rfl rfl rfl, rfl⟩
  | csrW1c n mask =>
    refine ⟨_, rfl, State.Sound.ended ?_ _ _⟩
    split
    · exact { hbegin 0 with reserved := clearEv_reserved h.reserved mask }
    · exact hbegin 0
  | _ => nomatch hl

theorem decodeControl_level {op : Nat} {key : Key} {n : Nat} {mask : BitVec 16} {i : Instr}
    (h : decodeControl op key n mask = some i) : i.level = .control := by
  unfold decodeControl at h
  split at h <;> cases h <;> rfl

/-- A control operation is a row of its own: no stage waits after it. -/
theorem State.Sound.runRows_control {s : State} (h : s.Sound) {i : Instr} (hl : i.level = .control) :
    ∃ t, runRows i s = .next t ∧ t.Sound := by
  obtain ⟨t, ht, hsound, hdone⟩ := h.control_row hl
  have hnext : runNext t = .next t := by simp [runNext, nextInstr, hdone]
  exact ⟨t, by simp [runRows, andThen, ht, hnext], hsound⟩

/-! ## The step -/

/-- The step that takes an input ends in a sound state with its working registers cleared. -/
theorem State.Sound.step_input {s : State} (h : s.Sound) {inp : Input} {rest : List Input} (hin : s.inputs = inp :: rest) :
    ∃ t, step s = .next (endStep t) ∧ t.Sound := by
  have hstart : (stepStart rest s).Sound := h.congr rfl rfl rfl
  cases inp with
  | deliver key bytes openOk ready =>
    have hbegin : (beginFrame key openOk ready (stepStart rest s)).Sound := hstart.congr rfl rfl rfl
    rcases hbegin.fetchFrame bytes with ⟨t, e, ht⟩ | ⟨i, t, k, n, e, hl, hrun⟩
    · exact ⟨t, step_of_ended hin e, ht⟩
    · obtain ⟨u, hu, hrun'⟩ := hrun.runRows hl
      exact ⟨u, step_of_run hin e hu, hrun'.sound⟩
  | control op key n mask =>
    cases hop : decodeControl op key n mask with
    | none =>
      exact ⟨unassignedControl (stepStart rest s), step_of_ended hin (by simp only [fetch, hop]),
        hstart.congr rfl rfl rfl⟩
    | some i =>
      obtain ⟨t, ht, hsound⟩ := hstart.runRows_control (decodeControl_level hop)
      exact ⟨t, step_of_run hin (by simp only [fetch, hop]) ht, hsound⟩

/-- Settles O10, by the invariant's parts: a frame runs its rows on a session in order, a control operation is one row, and
the end of the step clears the working registers. -/
theorem stepKeepsInvariant : Obligations.StepKeepsInvariant := by
  unfold Obligations.StepKeepsInvariant
  intro s t hinv hstep
  obtain ⟨hsound, -⟩ := (inv_iff_sound s).mp hinv
  cases hin : s.inputs with
  | nil =>
    obtain rfl : s = t := by simpa [step_of_nil hin] using hstep
    exact hinv
  | cons inp rest =>
    obtain ⟨u, hu, husound⟩ := hsound.step_input hin
    obtain rfl : endStep u = t := by simpa [hu] using hstep
    exact (inv_iff_sound _).mpr ⟨husound.congr rfl rfl rfl, rfl⟩

end Sys2Proof.Machine
end

section
/-! Two blocks that run one frame in lockstep on a slot (rules R71, R352): a row reads of the state its configuration, its
working registers and the selected slot, and writes nothing else of the table. The relation says both at once: what the two
runs share, and that each table is the one the step began with but for that slot. -/

namespace Sys2Proof.Machine

/-- Two runs that agree in everything a frame's row reads. Their tables are the given `σ` and `σ'`, each with the same slot
written at `n`, the slot that both have selected; a record that was emitted names it. -/
structure Lockstep (n : Nat) (σ σ' : List Slot) (s s' : State) : Prop where
  cfg : s'.cfg = s.cfg
  work : s'.work = s.work
  result : s'.result = s.result
  events : s'.events = s.events
  sel : s.work.sel = some n
  named : ∀ res, s.result = some res → res.slot = some n
  inTable : n < σ.length ∧ n < σ'.length
  slots : ∃ x, s.slots = σ.set n x ∧ s'.slots = σ'.set n x

/-- Both outcomes go on, in states that stand alike. -/
def BothGoOn (n : Nat) (σ σ' : List Slot) (o o' : Host.Outcome State Fault Refusal) : Prop :=
  ∃ t t', o = .next t ∧ o' = .next t' ∧ Lockstep n σ σ' t t'

theorem BothGoOn.andThen {n : Nat} {σ σ' : List Slot} {o o' : Host.Outcome State Fault Refusal}
    {f : State → Host.Outcome State Fault Refusal} (h : BothGoOn n σ σ' o o')
    (hf : ∀ t t', Lockstep n σ σ' t t' → BothGoOn n σ σ' (f t) (f t')) :
    BothGoOn n σ σ' (andThen o f) (andThen o' f) := by
  obtain ⟨t, t', rfl, rfl, ht⟩ := h
  exact hf t t' ht

namespace Lockstep

variable {n : Nat} {σ σ' : List Slot} {s s' t t' : State}

/-! ## What the two runs read alike -/

theorem sel' (h : Lockstep n σ σ' s s') : s'.work.sel = some n := by rw [h.work, h.sel]

theorem slot (h : Lockstep n σ σ' s s') : s'.slot n = s.slot n := by
  obtain ⟨x, hs, hs'⟩ := h.slots
  obtain ⟨hn, hn'⟩ := h.inTable
  simp [State.slot, hs, hs', hn, hn']

theorem cur (h : Lockstep n σ σ' s s') : s'.cur = s.cur := by rw [cur_of_sel h.sel, cur_of_sel h.sel', h.slot]

theorem child (h : Lockstep n σ σ' s s') (u : Nat) : s'.child u = s.child u := by rw [State.child, h.cur, State.child]

theorem selNo (h : Lockstep n σ σ' s s') : s'.selNo = s.selNo := by rw [State.selNo, h.work, State.selNo]

theorem ctx (h : Lockstep n σ σ' s s') : s'.ctx = s.ctx := by rw [State.ctx, h.cfg, h.cur, State.ctx]

/-! ## What a row does to the state -/

theorem next (h : Lockstep n σ σ' t t') : BothGoOn n σ σ' (.next t) (.next t') := ⟨t, t', rfl, rfl, h⟩

theorem emit (h : Lockstep n σ σ' s s') (e : Event) : Lockstep n σ σ' (emit e s) (emit e s') :=
  { h with events := by rw [emit_events, emit_events, h.events] }

theorem setStage (h : Lockstep n σ σ' s s') (g : Stage) : Lockstep n σ σ' (setStage g s) (setStage g s') :=
  { h with work := by rw [setStage_work, setStage_work, h.work] }

theorem setHdr (h : Lockstep n σ σ' s s') (hd : Option Hdr) : Lockstep n σ σ' (setHdr hd s) (setHdr hd s') :=
  { h with work := by rw [setHdr_work, setHdr_work, h.work] }

theorem raiseEv (h : Lockstep n σ σ' s s') (e : Ev) : Lockstep n σ σ' (raiseEv e s) (raiseEv e s') :=
  { h with work := by rw [raiseEv_work, raiseEv_work, h.work] }

/-- The record is made of the working registers, the selected slot's number among them (rule R321). -/
theorem finish (h : Lockstep n σ σ' s s') (c : Code) (v : Nat) : Lockstep n σ σ' (finish c v s) (finish c v s') :=
  { h with
    work := by rw [finish_work, finish_work, h.work]
    result := by rw [finish_result, finish_result, record, h.work, record]
    named := fun res hres => by
      obtain rfl := Option.some.inj hres
      exact h.sel }

theorem ignoreMessage (h : Lockstep n σ σ' s s') : Lockstep n σ σ' (ignoreMessage s) (ignoreMessage s') := h.finish _ _

theorem raise (h : Lockstep n σ σ' s s') (c : Code) (v : Nat) : Lockstep n σ σ' (raise c v s) (raise c v s') := by
  have hclass : Lockstep n σ σ' (raiseClass c.cls s) (raiseClass c.cls s') := by
    cases c.cls with
    | invalid | unsupported => exact h.raiseEv _
    | ok | pending | disconnected => exact h
  exact hclass.finish c v

theorem setCur (h : Lockstep n σ σ' s s') (x : Slot) : Lockstep n σ σ' (s.setCur x) (s'.setCur x) := by
  rw [setCur_of_sel h.sel, setCur_of_sel h.sel']
  obtain ⟨y, hs, hs'⟩ := h.slots
  exact { h with slots := ⟨x, by simp [hs], by simp [hs']⟩ }

theorem setChild (h : Lockstep n σ σ' s s') (u : Nat) (x : Child) :
    Lockstep n σ σ' (s.setChild u x) (s'.setChild u x) := by
  rw [State.setChild, State.setChild, h.cur]
  exact h.setCur _

/-! ## Level 1 -/

theorem dedup (h : Lockstep n σ σ' s s') (m : Message) : Lockstep n σ σ' (dedup m s) (dedup m s') := by
  unfold Machine.dedup
  rw [h.cur]
  split
  · exact h.finish _ _
  · exact (h.setCur _).setStage _

theorem discardChunks (h : Lockstep n σ σ' s s') : Lockstep n σ σ' (discardChunks s) (discardChunks s') := by
  rw [Machine.discardChunks, Machine.discardChunks, h.cur]
  exact h.setCur _

theorem chunkAppend (h : Lockstep n σ σ' s s') (off : Nat) (p : List Byte) :
    Lockstep n σ σ' (chunkAppend off p s) (chunkAppend off p s') := by
  unfold Machine.chunkAppend chunkStore
  rw [h.cur]
  split
  · exact h.discardChunks.raise _ _
  · split
    · exact h.discardChunks.raise _ _
    · exact (h.setCur _).raise _ _

theorem reassembled (h : Lockstep n σ σ' s s') (hd : Hdr) : reassembled hd s' = reassembled hd s := by
  rw [Machine.reassembled, h.cfg, h.cur, h.selNo, Machine.reassembled]

theorem chunkTerminate (h : Lockstep n σ σ' s s') (hd : Hdr) (x : Nat) :
    Lockstep n σ σ' (chunkTerminate hd x s) (chunkTerminate hd x s') := by
  unfold Machine.chunkTerminate
  rw [h.cur, h.reassembled]
  split
  · exact h.discardChunks.raise _ _
  · exact h.discardChunks.dedup _

theorem framing_row (h : Lockstep n σ σ' s s') {i : Instr} (hl : i.level = .framing) :
    BothGoOn n σ σ' (exec i s) (exec i s') := by
  cases i with
  | msg hd p => exact (h.dedup _).next
  | chkNop hd => exact (h.finish _ _).next
  | chkS hd x p =>
    refine ⟨_, _, rfl, rfl, ?_⟩
    rw [h.cur, h.cfg]
    split
    · exact h.discardChunks.raise _ _
    · split
      · exact h.discardChunks.raise _ _
      · exact (h.setCur _).chunkAppend 0 p
  | chkE hd x =>
    refine ⟨_, _, rfl, rfl, ?_⟩
    rw [h.cur]
    split
    · exact h.raise _ _
    · split
      · exact h.chunkTerminate hd x
      · exact h.chunkAppend x []
  | chkD hd x p =>
    refine ⟨_, _, rfl, rfl, ?_⟩
    rw [h.cur]
    split
    · exact h.raise _ _
    · exact h.chunkAppend x p
  | _ => nomatch hl

/-! ## Level 2 -/

theorem construct (h : Lockstep n σ σ' s s') (k : Kind) (am : AxisMode) (pm : PickupMode) :
    Lockstep n σ σ' (construct k am pm s) (construct k am pm s') := by
  unfold Machine.construct
  dsimp only
  rw [h.cur, h.selNo, h.work]
  split
  · exact h.raiseEv _
  · split
    · exact ((h.setCur _).emit _).emit _
    · exact (h.setCur _).emit _

theorem factory (h : Lockstep n σ σ' s s') : Lockstep n σ σ' (factory s) (factory s') := by
  unfold Machine.factory
  rw [h.cfg, h.cur]
  split
  · exact h.construct _ _ _
  · exact (h.raiseEv _).construct _ _ _

theorem selectMapper (h : Lockstep n σ σ' s s') : Lockstep n σ σ' (selectMapper s) (selectMapper s') := by
  have hsel : Lockstep n σ σ' (if s.cur.mapper.kind = .none then Machine.factory s else s)
      (if s.cur.mapper.kind = .none then Machine.factory s' else s') := by
    split
    · exact h.factory
    · exact h
  unfold Machine.selectMapper
  dsimp only
  rw [h.cfg, h.cur]
  generalize (if s.cur.mapper.kind = .none then Machine.factory s else s) = s1,
    (if s.cur.mapper.kind = .none then Machine.factory s' else s') = s1' at hsel ⊢
  rw [hsel.cur]
  split
  · exact hsel.raise _ _
  · exact hsel.finish _ _

theorem dscCommit (h : Lockstep n σ σ' s s') (g nm : List (List Byte)) (part cap : Bool) :
    Lockstep n σ σ' (dscCommit g nm part cap s) (dscCommit g nm part cap s') := by
  unfold Machine.dscCommit
  rw [h.cur]
  have hset (x : Slot) := h.setCur x
  cases part <;> cases cap
  · exact hset _
  · exact (hset _).raiseEv _
  · exact (hset _).raiseEv _
  · exact ((hset _).raiseEv _).raiseEv _

theorem lazyFallback (h : Lockstep n σ σ' s s') : Lockstep n σ σ' (lazyFallback s) (lazyFallback s') := by
  have hbuilt := h.construct .fallback .full .continuous
  unfold Machine.lazyFallback
  dsimp only
  rw [hbuilt.cur]
  split
  · exact hbuilt
  · split
    · exact hbuilt
    · exact (hbuilt.setCur _).raiseEv _

theorem forward (h : Lockstep n σ σ' s s') (m : Message) : Lockstep n σ σ' (forward m s) (forward m s') := by
  have hmapper : Lockstep n σ σ' (if s.cur.mapper.kind = .none then Machine.lazyFallback s else s)
      (if s.cur.mapper.kind = .none then Machine.lazyFallback s' else s') := by
    split
    · exact h.lazyFallback
    · exact h
  unfold Machine.forward
  dsimp only
  rw [h.cur]
  generalize (if s.cur.mapper.kind = .none then Machine.lazyFallback s else s) = s1,
    (if s.cur.mapper.kind = .none then Machine.lazyFallback s' else s') = s1' at hmapper ⊢
  rw [hmapper.cur, hmapper.work]
  split
  · exact hmapper.raise _ _
  · split
    · exact hmapper.raise _ _
    · exact hmapper.setStage _

theorem dispatch_row (h : Lockstep n σ σ' s s') {i : Instr} (hl : i.level = .dispatch) :
    BothGoOn n σ σ' (exec i s) (exec i s') := by
  cases i with
  | ack m | auth m | serial m => exact (h.finish _ _).next
  | arrival m =>
    refine ⟨_, _, rfl, rfl, ?_⟩
    rw [h.cur, h.cfg]
    split
    · exact h.finish _ _
    · split
      · exact h.raise _ _
      · exact (h.setCur _).finish _ _
  | descriptor m =>
    refine ⟨_, _, rfl, rfl, ?_⟩
    rw [h.cur, h.cfg]
    split
    · exact h.finish _ _
    · split
      · exact h.raise _ _
      · exact (h.dscCommit _ _ _ _).selectMapper
  | keystroke m | input m | ghlInput m | other m => exact (h.forward m).next
  | _ => nomatch hl

/-! ## Level 3 -/

theorem commit (h : Lockstep n σ σ' s s') (o : Out) : Lockstep n σ σ' (commit o s) (commit o s') := by
  unfold Machine.commit
  rw [h.cur, h.selNo]
  exact ((h.setCur _).emit _).finish _ _

theorem decodeDrums (h : Lockstep n σ σ' s s') (d : List Byte) :
    Lockstep n σ σ' (decodeDrums d s) (decodeDrums d s') := by
  unfold Machine.decodeDrums
  rw [h.cur, h.cfg]
  exact (h.setCur _).commit _

theorem runLayout (h : Lockstep n σ σ' s s') (k : Kind) (d : List Byte) :
    Lockstep n σ σ' (runLayout k d s) (runLayout k d s') := by
  cases k with
  | guitar | sixFret | gamepad =>
    simp only [Machine.runLayout, decodeGuitar, decodeSixFret, decodeGamepad, h.cfg]
    exact h.commit _
  | drums => exact h.decodeDrums d
  | none | fallback | legacyDemux => exact h.ignoreMessage

theorem keystrokeGuide (h : Lockstep n σ σ' s s') (m : Message) :
    BothGoOn n σ σ' (exec (.keystrokeGuide m) s) (exec (.keystrokeGuide m) s') := by
  refine ⟨_, _, rfl, rfl, ?_⟩
  rw [h.cur, h.cfg, h.selNo]
  split
  · exact h.ignoreMessage
  · split
    · exact h.ignoreMessage
    · exact ((h.setCur _).emit _).finish _ _

theorem disposeChild (h : Lockstep n σ σ' s s') (u : Nat) :
    Lockstep n σ σ' (disposeChild u s) (disposeChild u s') := by
  unfold Machine.disposeChild
  rw [h.child, h.selNo]
  split
  · exact h
  · exact (h.setChild u _).emit _

theorem connectChild (h : Lockstep n σ σ' s s') (u : Nat) (k : Kind) :
    Lockstep n σ σ' (connectChild u k s) (connectChild u k s') := by
  have hdisposed := h.disposeChild u
  unfold Machine.connectChild
  dsimp only
  rw [hdisposed.work, hdisposed.selNo]
  split
  · exact (hdisposed.raiseEv _).finish _ _
  · exact ((hdisposed.setChild u _).emit _).finish _ _

theorem commitChild (h : Lockstep n σ σ' s s') (u : Nat) (o : Out) :
    Lockstep n σ σ' (commitChild u o s) (commitChild u o s') := by
  unfold Machine.commitChild
  rw [h.child, h.selNo]
  exact ((h.setChild u _).emit _).finish _ _

theorem decodeChildDrums (h : Lockstep n σ σ' s s') (u : Nat) (d : List Byte) :
    Lockstep n σ σ' (decodeChildDrums u d s) (decodeChildDrums u d s') := by
  unfold Machine.decodeChildDrums
  rw [h.child, h.cfg]
  exact (h.setChild u _).commitChild u _

theorem withUser (h : Lockstep n σ σ' s s') (m : Message) {f f' : LgyCfg → Nat → State}
    (hf : ∀ l u, Lockstep n σ σ' (f l u) (f' l u)) : Lockstep n σ σ' (withUser m s f) (withUser m s' f') := by
  unfold Machine.withUser
  rw [h.cfg]
  split
  · exact h.ignoreMessage
  · split
    · exact h.ignoreMessage
    · dsimp only
      split
      · exact (h.raiseEv _).ignoreMessage
      · exact hf _ _

theorem lgyConnect (h : Lockstep n σ σ' s s') (m : Message) :
    BothGoOn n σ σ' (exec (.lgyConnect m) s) (exec (.lgyConnect m) s') := by
  refine ⟨_, _, rfl, rfl, h.withUser m fun l u => ?_⟩
  split
  · exact h.ignoreMessage
  · split
    · exact (h.raiseEv _).finish _ _
    · exact h.connectChild u _

theorem lgyInput (h : Lockstep n σ σ' s s') (m : Message) :
    BothGoOn n σ σ' (exec (.lgyInput m) s) (exec (.lgyInput m) s') := by
  refine ⟨_, _, rfl, rfl, h.withUser m fun l u => ?_⟩
  rw [h.child, h.cfg]
  split
  · exact h.ignoreMessage
  · split
    · exact h.ignoreMessage
    · dsimp only
      split
      · exact h.commitChild u _
      · split
        · exact h.decodeChildDrums u _
        · exact h.ignoreMessage

/-- A report that a layout takes or, of another length, ignores (rule R241). -/
theorem ite_ignore (h : Lockstep n σ σ' s s') {p : Prop} [Decidable p] (ht : Lockstep n σ σ' t t') :
    Lockstep n σ σ' (if p then t else Machine.ignoreMessage s) (if p then t' else Machine.ignoreMessage s') := by
  split
  · exact ht
  · exact h.ignoreMessage

theorem report_row (h : Lockstep n σ σ' s s') {i : Instr} (hl : i.level = .report) :
    BothGoOn n σ σ' (exec i s) (exec i s') := by
  cases i with
  | inputGtr m | ghlInputGhl m | inputPad m =>
    refine ⟨_, _, rfl, rfl, ?_⟩
    simp only [decodeGuitar, decodeSixFret, decodeGamepad, h.cfg, h.cur]
    exact h.ite_ignore (h.commit _)
  | inputDrm m =>
    refine ⟨_, _, rfl, rfl, ?_⟩
    rw [h.cfg]
    exact h.ite_ignore (h.decodeDrums _)
  | inputFb m =>
    refine ⟨_, _, rfl, rfl, ?_⟩
    rw [h.cfg]
    split
    · exact h.runLayout _ _
    · exact h.ignoreMessage
  | keystrokeGuide m => exact h.keystrokeGuide m
  | lgyConnect m => exact h.lgyConnect m
  | lgyDisconnect m => exact ⟨_, _, rfl, rfl, h.withUser m fun l u => (h.disposeChild u).finish _ _⟩
  | lgyInput m => exact h.lgyInput m
  | noop m => exact h.ignoreMessage.next
  | _ => nomatch hl

/-! ## The rows of a frame -/

theorem runNext (h : Lockstep n σ σ' s s') : BothGoOn n σ σ' (runNext s) (runNext s') := by
  unfold Machine.runNext nextInstr
  rw [h.work, h.cfg, h.cur]
  cases s.work.stage with
  | done => exact h.next
  | message m => exact h.dispatch_row (decodeMessage_level _ _)
  | report m => exact h.report_row (decodeReport_level _ _ _)

theorem runRows (h : Lockstep n σ σ' s s') {i : Instr} (hl : i.level = .framing) :
    BothGoOn n σ σ' (runRows i s) (runRows i s') :=
  ((h.framing_row hl).andThen fun _ _ => runNext).andThen fun _ _ => runNext

end Lockstep

end Sys2Proof.Machine
end

section
/-! A frame's step touches its own slot only, and asks nothing of the others (rules R71, R352): ROUTE brings two blocks that
agree on the session, or on the slot to allocate, into lockstep, and the rows keep them there. -/

namespace Sys2Proof.Machine

/-! ## The start of a frame's step -/

/-- The state in which a frame's step looks at the frame. -/
def frameStart (key : Key) (openOk ready : Bool) (rest : List Input) (s : State) : State :=
  beginFrame key openOk ready (stepStart rest s)

@[simp] theorem frameStart_slots (key : Key) (o r : Bool) (rest : List Input) (s : State) :
    (frameStart key o r rest s).slots = s.slots := rfl

/-- Two blocks hold the same session of `key` in slot `n`, or both allocate slot `n` for it from the same draws, `CB` and
children. -/
def SameSession (key : Key) (n : Nat) (s s' : State) : Prop :=
  (findKey key s.slots = some n ∧ findKey key s'.slots = some n ∧ s.slot n = s'.slot n)
    ∨ (findKey key s.slots = none ∧ findKey key s'.slots = none ∧ findFree s.slots = some n ∧ findFree s'.slots = some n
      ∧ s.draws = s'.draws ∧ (s.slot n).cb = (s'.slot n).cb ∧ (s.slot n).children = (s'.slot n).children)

/-- A block shares a session with itself, unless the key has none and no slot is free. -/
theorem sameSession_self_or_full (key : Key) (s : State) :
    (∃ n, SameSession key n s s) ∨ (findKey key s.slots = none ∧ findFree s.slots = none) := by
  cases hk : findKey key s.slots with
  | some n => exact .inl ⟨n, .inl ⟨hk, hk, rfl⟩⟩
  | none =>
    cases hf : findFree s.slots with
    | some n => exact .inl ⟨n, .inr ⟨hk, hk, hf, hf, rfl, rfl, rfl⟩⟩
    | none => exact .inr ⟨rfl, rfl⟩

theorem lt_of_findKey {key : Key} {slots : List Slot} {n : Nat} (h : findKey key slots = some n) : n < slots.length := by
  obtain ⟨x, hx, -⟩ := findKey_some h
  exact (List.getElem?_eq_some_iff.mp hx).1

theorem lt_of_findFree {slots : List Slot} {n : Nat} (h : findFree slots = some n) : n < slots.length := by
  obtain ⟨x, hx, -⟩ := findFree_some h
  exact (List.getElem?_eq_some_iff.mp hx).1

/-- An allocation takes of the slot before it the `CB` and the children alone (rules R46, R372). -/
theorem allocatedSlot_congr {x y : Slot} (c : Cfg) (key : Key) (draw : Nat) (hcb : x.cb = y.cb)
    (hch : x.children = y.children) : allocatedSlot c key draw x = allocatedSlot c key draw y := by
  rw [allocatedSlot, hcb, hch, allocatedSlot]

/-- ROUTE brings two blocks that share the session into lockstep on its slot. -/
theorem SameSession.route {key : Key} {n : Nat} {s s' : State} (h : SameSession key n s s') (hcfg : s.cfg = s'.cfg)
    (o r : Bool) (rest rest' : List Input) :
    ∃ t t', Machine.route key (frameStart key o r rest s) = some t
      ∧ Machine.route key (frameStart key o r rest' s') = some t' ∧ Lockstep n s.slots s'.slots t t' := by
  rcases h with ⟨hk, hk', hslot⟩ | ⟨hk, hk', hf, hf', hdraws, hcb, hch⟩
  · refine ⟨select n (frameStart key o r rest s), select n (frameStart key o r rest' s'),
      by simp [Machine.route, hk], by simp [Machine.route, hk'],
      { cfg := hcfg.symm, work := rfl, result := rfl, events := rfl, sel := rfl, named := nofun
        inTable := ⟨lt_of_findKey hk, lt_of_findKey hk'⟩
        slots := ⟨s.slot n, (set_slot_self n s).symm, ?_⟩ }⟩
    rw [hslot]
    exact (set_slot_self n s').symm
  · have hnew : allocatedSlot s'.cfg key s'.draws (s'.slot n) = allocatedSlot s.cfg key s.draws (s.slot n) := by
      rw [← hcfg, ← hdraws, allocatedSlot_congr _ _ _ hcb hch]
    exact ⟨select n (allocate n key (frameStart key o r rest s)), select n (allocate n key (frameStart key o r rest' s')),
      by simp [Machine.route, hk, hf], by simp [Machine.route, hk', hf'],
      { cfg := hcfg.symm, work := rfl, result := rfl, events := rfl, sel := rfl, named := nofun
        inTable := ⟨lt_of_findFree hf, lt_of_findFree hf'⟩
        slots := ⟨_, rfl, congrArg (s'.slots.set n) hnew⟩ }⟩

/-- Both starts of a frame's step end it, or both run the same level-1 row, in states that stand alike. -/
def BothFetch (n : Nat) (σ σ' : List Slot) (f f' : Fetched) : Prop :=
  ∃ t t', Lockstep n σ σ' t t'
    ∧ ((f = .ended t ∧ f' = .ended t') ∨ ∃ i, i.level = .framing ∧ f = .run i t ∧ f' = .run i t')

theorem Lockstep.fetchHeader {n : Nat} {σ σ' : List Slot} {s s' : State} (h : Lockstep n σ σ' s s') (bytes : List Byte) :
    BothFetch n σ σ' (fetchHeader bytes s) (fetchHeader bytes s') := by
  unfold Machine.fetchHeader
  rw [h.cfg, h.ctx]
  split
  · exact ⟨_, _, (h.setHdr _).raise _ _, .inl ⟨rfl, rfl⟩⟩
  · refine ⟨_, _, ?_, .inr ⟨_, decodeFraming_level _ _, rfl, rfl⟩⟩
    split
    · exact (h.setHdr _).raiseEv _
    · exact h.setHdr _

theorem fetchFrame_of_route_none {bytes : List Byte} {s : State} (hlen : bytes.length ≤ s.cfg.frameMax)
    (hr : route s.work.key s = none) : fetchFrame bytes s = .ended (raise .unsNoSlot 0 s) := by
  simp [fetchFrame, Nat.not_lt.mpr hlen, hr]

theorem fetchFrame_of_route_some {bytes : List Byte} {s t : State} (hlen : bytes.length ≤ s.cfg.frameMax)
    (hr : route s.work.key s = some t) : fetchFrame bytes s = fetchHeader bytes t := by
  simp [fetchFrame, Nat.not_lt.mpr hlen, hr]

/-! ## The step -/

section
variable {key : Key} {bytes : List Byte} {o r : Bool} {rest rest' : List Input} {n : Nat} {s s' : State}

/-- A frame too long is turned away before ROUTE (rule R135). -/
theorem step_of_oversize (hin : s.inputs = .deliver key bytes o r :: rest) (hlen : s.cfg.frameMax < bytes.length) :
    step s = .next (endStep (raise .invFrameOversize bytes.length (frameStart key o r rest s))) :=
  step_of_ended hin (if_pos hlen)

/-- A frame of a key without a session is turned away when no slot is free (rule R131). -/
theorem step_of_full (hin : s.inputs = .deliver key bytes o r :: rest) (hlen : bytes.length ≤ s.cfg.frameMax)
    (hk : findKey key s.slots = none) (hf : findFree s.slots = none) :
    step s = .next (endStep (raise .unsNoSlot 0 (frameStart key o r rest s))) := by
  have hroute : route key (frameStart key o r rest s) = none := by simp [route, hk, hf]
  exact step_of_ended hin (fetchFrame_of_route_none hlen hroute)

/-- The steps of one frame in two blocks that share its session end in lockstep. -/
theorem SameSession.step (h : SameSession key n s s') (hcfg : s.cfg = s'.cfg)
    (hin : s.inputs = .deliver key bytes o r :: rest) (hin' : s'.inputs = .deliver key bytes o r :: rest')
    (hlen : bytes.length ≤ s.cfg.frameMax) :
    ∃ t t', Machine.step s = .next (endStep t) ∧ Machine.step s' = .next (endStep t')
      ∧ Lockstep n s.slots s'.slots t t' := by
  obtain ⟨u, u', hu, hu', hroute⟩ := h.route hcfg o r rest rest'
  have hf : fetch (.deliver key bytes o r) (stepStart rest s) = fetchHeader bytes u := fetchFrame_of_route_some hlen hu
  have hf' : fetch (.deliver key bytes o r) (stepStart rest' s') = fetchHeader bytes u' :=
    fetchFrame_of_route_some (hcfg ▸ hlen) hu'
  rcases hroute.fetchHeader bytes with ⟨t, t', ht, ⟨e, e'⟩ | ⟨i, hl, e, e'⟩⟩
  · exact ⟨t, t', step_of_ended hin (hf.trans e), step_of_ended hin' (hf'.trans e'), ht⟩
  · obtain ⟨v, v', hv, hv', hrows⟩ := ht.runRows hl
    exact ⟨v, v', step_of_run hin (hf.trans e) hv, step_of_run hin' (hf'.trans e') hv', hrows⟩

/-- What a frame's step leaves of the table: all of it, or all but the slot that its record names. -/
theorem step_deliver_slots (hin : s.inputs = .deliver key bytes o r :: rest) :
    ∃ t, step s = .next (endStep t)
      ∧ (t.slots = s.slots ∨ ∃ n x, t.slots = s.slots.set n x ∧ ∀ res, t.result = some res → res.slot = some n) := by
  by_cases hlen : bytes.length ≤ s.cfg.frameMax
  · rcases sameSession_self_or_full key s with ⟨n, h⟩ | ⟨hk, hf⟩
    · obtain ⟨t, t', ht, -, hlock⟩ := h.step rfl hin hin hlen
      obtain ⟨x, hx, -⟩ := hlock.slots
      exact ⟨t, ht, .inr ⟨n, x, hx, hlock.named⟩⟩
    · exact ⟨_, step_of_full hin hlen hk hf, .inl (raise_slots _ _ _)⟩
  · exact ⟨_, step_of_oversize hin (Nat.lt_of_not_le hlen), .inl (raise_slots _ _ _)⟩

end

/-- Settles O14: the table stays or is written at one slot, the one that the step's record names. -/
theorem frameTouchesOnlyItsSlot : Obligations.FrameTouchesOnlyItsSlot := by
  unfold Obligations.FrameTouchesOnlyItsSlot
  intro s t key bytes o r rest hin hstep
  obtain ⟨u, hu, hslots⟩ := step_deliver_slots hin
  obtain rfl := Host.Outcome.next.inj (hu.symm.trans hstep)
  obtain ⟨v, hv, -, -, -, -, res, hres, -⟩ := step_deliver hin
  have huv : endStep u = endStep v := Host.Outcome.next.inj (hu.symm.trans hv)
  have hresult : u.result = some res := (congrArg State.result huv).trans hres
  rcases hslots with hslots | ⟨n, x, hslots, hnamed⟩
  · exact ⟨congrArg List.length hslots, res, hresult, fun j _ => slot_congr hslots j⟩
  · refine ⟨(congrArg List.length hslots).trans List.length_set, res, hresult, fun j hj => ?_⟩
    have hnj : n ≠ j := fun e => hj (e ▸ hnamed res hresult)
    calc (endStep u).slot j = (s.setSlot n x).slot j := slot_congr hslots j
      _ = s.slot j := slot_setSlot_other hnj x

/-- Settles O15: a frame too long is turned away alike by any two blocks of one configuration, and every other runs in
lockstep on the slot that the two share. -/
theorem sessionsDoNotInterfere : Obligations.SessionsDoNotInterfere := by
  unfold Obligations.SessionsDoNotInterfere
  intro s s' t t' key bytes o r rest rest' n hin hin' hcfg hsame hstep hstep'
  by_cases hlen : bytes.length ≤ s.cfg.frameMax
  · obtain ⟨u, u', hu, hu', hlock⟩ := SameSession.step hsame hcfg hin hin' hlen
    obtain rfl := Host.Outcome.next.inj (hu.symm.trans hstep)
    obtain rfl := Host.Outcome.next.inj (hu'.symm.trans hstep')
    exact ⟨hlock.result.symm, hlock.events.symm, fun _ => hlock.slot.symm⟩
  · have hu := step_of_oversize hin (Nat.lt_of_not_le hlen)
    have hu' := step_of_oversize hin' (hcfg ▸ Nat.lt_of_not_le hlen)
    obtain rfl := Host.Outcome.next.inj (hu.symm.trans hstep)
    obtain rfl := Host.Outcome.next.inj (hu'.symm.trans hstep')
    refine ⟨rfl, rfl, fun h => ?_⟩
    rcases hsame with ⟨-, -, hslot⟩ | ⟨hk, -⟩
    · rw [endStep_slot, raise_slot, endStep_slot, raise_slot]
      exact hslot
    · simp [hk, hlen] at h

end Sys2Proof.Machine
end

section
/-! LEB128 fields (rules R94, R133, R138): `read_leb` reads every valid encoding wherever it stands in a frame, and the
encoder's `leb` writes a valid one that fits the field. -/

namespace Sys2Proof.Machine

/-! ## Reading a field -/

/-- A valid encoding is a last byte alone, or a continuation byte before a valid encoding (rule R94). -/
theorem validLeb_cons_iff (b : Byte) (rest : List Byte) :
    validLeb (b :: rest) = true
      ↔ (b.getLsbD 7 = false ∧ rest = []) ∨ (b.getLsbD 7 = true ∧ validLeb rest = true) := by
  cases rest <;> simp [validLeb]

/-- The loop of `read_leb` takes exactly the encoding, and adds its value from the byte number `i` on (rule R133). -/
theorem readLebFrom_of_validLeb (which : Nat) (post : List Byte) {enc : List Byte} (hv : validLeb enc = true)
    (pre : List Byte) {fuel : Nat} (hlen : enc.length ≤ fuel) (i v : Nat) :
    readLebFrom (pre ++ enc ++ post) which fuel i pre.length v
      = .value (v + lebValue i enc) (pre.length + enc.length) := by
  induction enc generalizing pre fuel i v with
  | nil => nomatch hv
  | cons b rest ih =>
    cases fuel with
    | zero => nomatch hlen
    | succ fuel =>
      have hb : (pre ++ b :: rest ++ post)[pre.length]? = some b := by simp
      rw [readLebFrom, hb]
      rcases (validLeb_cons_iff b rest).mp hv with ⟨h7, rfl⟩ | ⟨h7, hrest⟩
      · simp only [h7, Bool.false_eq_true, if_false, lebValue, Nat.add_zero, List.length_singleton]
      · have hnext := ih hrest (pre ++ [b]) (Nat.le_of_succ_le_succ hlen) (i + 1)
          (v + (b &&& 0x7F#8).toNat * 2 ^ (7 * i))
        rw [List.append_assoc pre, List.length_append] at hnext
        simp only [h7, if_true]
        refine hnext.trans ?_
        rw [lebValue, Nat.add_assoc v, Nat.add_assoc pre.length, Nat.add_comm [b].length]
        rfl

/-- `read_leb` at a valid encoding, minimal or not, answers its value and the cursor behind it (rule R138). -/
theorem readLeb_of_validLeb {c : Cfg} {fr pre enc post : List Byte} {pos : Nat} (which : Nat)
    (hfr : fr = pre ++ enc ++ post) (hpos : pos = pre.length) (hv : validLeb enc = true)
    (hlen : enc.length ≤ c.varintMaxBytes) :
    readLeb c fr which pos = .value (lebValue 0 enc) (pos + enc.length) := by
  subst hfr hpos
  rw [readLeb, readLebFrom_of_validLeb which post hv pre hlen, Nat.zero_add]

/-! ## Writing a field -/

theorem getLsbD_seven_ofNat {v : Nat} (h : v < 256) : (BitVec.ofNat 8 v).getLsbD 7 = decide (128 ≤ v) := by
  have hmsb := BitVec.msb_eq_decide (BitVec.ofNat 8 v)
  rwa [BitVec.msb_eq_getLsbD_last, BitVec.toNat_ofNat, Nat.mod_eq_of_lt h] at hmsb

/-- The seven value bits of a byte (rule R94). -/
theorem ofNat_and_0x7F_toNat (v : Nat) : (BitVec.ofNat 8 v &&& 0x7F#8).toNat = v % 128 := by
  have hmask : (0x7F#8).toNat = 2 ^ 7 - 1 := rfl
  rw [BitVec.toNat_and, hmask, Nat.and_two_pow_sub_one_eq_mod, BitVec.toNat_ofNat]
  omega

/-- `leb` marks every byte but the last; `fuel` suffices, as each further byte stands for a smaller number. -/
theorem lebFrom_valid {fuel v : Nat} (h : v ≤ fuel) : validLeb (lebFrom fuel v) = true := by
  induction fuel generalizing v with
  | zero =>
    obtain rfl : v = 0 := Nat.le_zero.mp h
    rfl
  | succ fuel ih =>
    rw [lebFrom]
    split
    · next hv =>
      refine (validLeb_cons_iff _ _).mpr (.inl ⟨?_, rfl⟩)
      rw [getLsbD_seven_ofNat (by omega)]
      exact decide_eq_false (by omega)
    · refine (validLeb_cons_iff _ _).mpr (.inr ⟨?_, ih (by omega)⟩)
      rw [getLsbD_seven_ofNat (by omega)]
      exact decide_eq_true (by omega)

theorem lebValue_lebFrom {fuel v : Nat} (h : v ≤ fuel) (i : Nat) : lebValue i (lebFrom fuel v) = v * 2 ^ (7 * i) := by
  induction fuel generalizing v i with
  | zero =>
    obtain rfl : v = 0 := Nat.le_zero.mp h
    simp [lebFrom, lebValue]
  | succ fuel ih =>
    rw [lebFrom]
    split
    · next hv => rw [lebValue, lebValue, ofNat_and_0x7F_toNat, Nat.mod_eq_of_lt hv, Nat.add_zero]
    · have hpow : 2 ^ (7 * (i + 1)) = 128 * 2 ^ (7 * i) := by rw [Nat.mul_succ, Nat.pow_add, Nat.mul_comm]
      rw [lebValue, ofNat_and_0x7F_toNat, ih (by omega), hpow, ← Nat.mul_assoc, ← Nat.add_mul]
      congr 1
      omega

theorem lebFrom_length_le (fuel : Nat) {v k : Nat} (h : v < 2 ^ (7 * (k + 1))) : (lebFrom fuel v).length ≤ k + 1 := by
  induction fuel generalizing v k with
  | zero => exact Nat.succ_le_succ (Nat.zero_le k)
  | succ fuel ih =>
    rw [lebFrom]
    split
    · exact Nat.succ_le_succ (Nat.zero_le k)
    · next hv =>
      cases k with
      | zero => exact absurd h hv
      | succ k =>
        have hpow : 2 ^ (7 * (k + 1 + 1)) = 2 ^ (7 * (k + 1)) * 128 := by rw [Nat.mul_succ 7, Nat.pow_add]
        exact Nat.succ_le_succ (ih (Nat.div_lt_of_lt_mul (by omega)))

theorem leb_valid (v : Nat) : validLeb (leb v) = true := lebFrom_valid (Nat.le_refl v)

@[simp] theorem lebValue_leb (v : Nat) : lebValue 0 (leb v) = v := by
  rw [leb, lebValue_lebFrom (Nat.le_refl v), Nat.mul_zero, Nat.pow_zero, Nat.mul_one]

/-- A value of `LEN_W` bits is written in at most `VARINT_MAX_BYTES` bytes (rule R94). -/
theorem leb_length_le {c : Cfg} {v : Nat} (hc : 0 < c.varintMaxBytes) (hv : c.lebFits v = true) :
    (leb v).length ≤ c.varintMaxBytes := by
  rw [Cfg.lebFits, decide_eq_true_eq, Cfg.lenW, ← Nat.succ_pred_eq_of_pos hc] at hv
  rw [← Nat.succ_pred_eq_of_pos hc]
  exact lebFrom_length_le v hv

end Sys2Proof.Machine
end

section
/-! HDR and the payload extraction read back the parts that a frame is made of (rules R91, R92, R132, R134, R136). -/

namespace Sys2Proof.Machine

/-! ## The first three bytes -/

theorem hdr_ok_of_wf {c : Cfg} (hwf : c.wf = true) : c.hdr.ok = true := by
  simp only [Cfg.wf, Bool.and_eq_true] at hwf
  tauto

theorem varintMaxBytes_pos {c : Cfg} (hwf : c.wf = true) : 0 < c.varintMaxBytes := by
  simp only [Cfg.wf, Bool.and_eq_true, decide_eq_true_eq] at hwf
  have hmax : 4 ≤ c.varintMaxBytes := by tauto
  omega

@[simp] theorem encodePrefix_length (c : Cfg) (h : Hdr) : (encodePrefix c h).length = 3 := rfl

/-- Each of the first three bytes is the header field that the configuration places there (rule R91). -/
theorem byteAt_encodePrefix (c : Cfg) (h : Hdr) (rest : List Byte) {a : Nat} (ha : a < 3) :
    byteAt (encodePrefix c h ++ rest) a
      = if a = c.hdr.cmdOff then h.cmd else if a = c.hdr.flagsOff then h.flags else h.seq := by
  rw [byteAt, List.getD_append _ _ _ _ (by simpa using ha)]
  simp [encodePrefix, ha]

theorem readPrefix_encodePrefix {c : Cfg} (hok : c.hdr.ok = true) (h : Hdr) (rest : List Byte) :
    readPrefix c (encodePrefix c h ++ rest) = some h := by
  simp only [HdrCfg.ok, Bool.and_eq_true, decide_eq_true_eq, List.nodup_cons, List.mem_cons, not_or] at hok
  obtain ⟨hcmd, hflags, hseq, hcf, hcs, hfs⟩ : c.hdr.cmdOff < 3 ∧ c.hdr.flagsOff < 3 ∧ c.hdr.seqOff < 3
      ∧ c.hdr.cmdOff ≠ c.hdr.flagsOff ∧ c.hdr.cmdOff ≠ c.hdr.seqOff ∧ c.hdr.flagsOff ≠ c.hdr.seqOff := by tauto
  have hlong : ¬ (encodePrefix c h ++ rest).length < 3 := by simp
  rw [readPrefix, if_neg hlong, byteAt_encodePrefix c h rest hcmd, byteAt_encodePrefix c h rest hflags,
    byteAt_encodePrefix c h rest hseq]
  simp [hcf.symm, hcs.symm, hfs.symm]

/-! ## The payload -/

/-- The payload is what the length names behind the header; any byte after it is trailing (rule R136). -/
theorem extractPayload_of_parts {fr pre payload post : List Byte} {len pos : Nat} (h : Hdr) (idx : Option Nat)
    (hfr : fr = pre ++ payload ++ post) (hpos : pos = pre.length) (hlen : len = payload.length) :
    extractPayload fr h len idx pos
      = .ok { hdr := h, len := payload.length, idx := idx, hsize := pos, payload := payload,
              trailing := decide (0 < post.length) } := by
  subst hfr hpos hlen
  simp [extractPayload, slice]

/-! ## The frame -/

section
variable {c : Cfg} {fr : List Byte} {h : Hdr} {len pos : Nat}

theorem parseFrame_of_fields (hprefix : readPrefix c fr = some h) (hlen : readLeb c fr 0 3 = .value len pos)
    (hch : c.hdr.chunked h.flags = false) : parseFrame c fr = extractPayload fr h len none pos := by
  simp [parseFrame, hprefix, hlen, hch]

theorem parseFrame_of_fields_chunked {idx pos' : Nat} (hprefix : readPrefix c fr = some h)
    (hlen : readLeb c fr 0 3 = .value len pos) (hch : c.hdr.chunked h.flags = true)
    (hidx : readLeb c fr 1 pos = .value idx pos') : parseFrame c fr = extractPayload fr h len (some idx) pos' := by
  simp [parseFrame, hprefix, hlen, hch, hidx]

end

section
variable {c : Cfg} {h : Hdr} {lenEnc idxEnc payload : List Byte}

/-- A frame of format H (rule R91), with any encoding of its length field. -/
theorem parseFrame_unchunked (hwf : c.wf = true) (hvalid : validLeb lenEnc = true)
    (hmax : lenEnc.length ≤ c.varintMaxBytes) (hlen : lebValue 0 lenEnc = payload.length)
    (hch : c.hdr.chunked h.flags = false) (post : List Byte) :
    parseFrame c (encodePrefix c h ++ lenEnc ++ payload ++ post)
      = .ok { hdr := h, len := payload.length, idx := none, hsize := 3 + lenEnc.length, payload := payload,
              trailing := decide (0 < post.length) } := by
  have hprefix : readPrefix c (encodePrefix c h ++ lenEnc ++ payload ++ post) = some h := by
    simp only [List.append_assoc]
    exact readPrefix_encodePrefix (hdr_ok_of_wf hwf) h _
  have hlenField : readLeb c (encodePrefix c h ++ lenEnc ++ payload ++ post) 0 3
      = .value (lebValue 0 lenEnc) (3 + lenEnc.length) :=
    readLeb_of_validLeb 0 (pre := encodePrefix c h) (post := payload ++ post) (by simp) rfl hvalid hmax
  rw [parseFrame_of_fields hprefix hlenField hch]
  exact extractPayload_of_parts h none rfl (by simp) hlen

/-- A frame of format HC (rule R92), with any encodings of its two fields. -/
theorem parseFrame_chunked (hwf : c.wf = true) (hvalid : validLeb lenEnc = true)
    (hmax : lenEnc.length ≤ c.varintMaxBytes) (hlen : lebValue 0 lenEnc = payload.length)
    (hch : c.hdr.chunked h.flags = true) (hvalidIdx : validLeb idxEnc = true)
    (hmaxIdx : idxEnc.length ≤ c.varintMaxBytes) (post : List Byte) :
    parseFrame c (encodePrefix c h ++ lenEnc ++ idxEnc ++ payload ++ post)
      = .ok { hdr := h, len := payload.length, idx := some (lebValue 0 idxEnc),
              hsize := 3 + lenEnc.length + idxEnc.length, payload := payload,
              trailing := decide (0 < post.length) } := by
  have hprefix : readPrefix c (encodePrefix c h ++ lenEnc ++ idxEnc ++ payload ++ post) = some h := by
    simp only [List.append_assoc]
    exact readPrefix_encodePrefix (hdr_ok_of_wf hwf) h _
  have hlenField : readLeb c (encodePrefix c h ++ lenEnc ++ idxEnc ++ payload ++ post) 0 3
      = .value (lebValue 0 lenEnc) (3 + lenEnc.length) :=
    readLeb_of_validLeb 0 (pre := encodePrefix c h) (post := idxEnc ++ payload ++ post) (by simp) rfl hvalid hmax
  have hidxField : readLeb c (encodePrefix c h ++ lenEnc ++ idxEnc ++ payload ++ post) 1 (3 + lenEnc.length)
      = .value (lebValue 0 idxEnc) (3 + lenEnc.length + idxEnc.length) :=
    readLeb_of_validLeb 1 (pre := encodePrefix c h ++ lenEnc) (post := payload ++ post) (by simp) (by simp)
      hvalidIdx hmaxIdx
  rw [parseFrame_of_fields_chunked hprefix hlenField hch hidxField]
  exact extractPayload_of_parts h _ rfl (by simp [Nat.add_assoc]) hlen

end

/-- Settles O4: HDR reads the first three bytes and each field where it stands; the payload begins behind the last. -/
theorem frameParsesIntoItsParts : Obligations.FrameParsesIntoItsParts := by
  unfold Obligations.FrameParsesIntoItsParts
  intro c h lenEnc idxEnc payload post hwf hvalid hmax hlen
  exact ⟨fun hch => parseFrame_unchunked hwf hvalid hmax hlen hch post,
    fun hch hvalidIdx hmaxIdx => parseFrame_chunked hwf hvalid hmax hlen hch hvalidIdx hmaxIdx post⟩

end Sys2Proof.Machine
end

section
/-! The decoder gives back what the encoder wrote (rules R91, R92, R95 to R99, R110), level by level: the frame parses into
its parts, and the parts select the row. -/

namespace Sys2Proof.Machine

/-! ## The wire -/

section
variable {c : Cfg} {h : Hdr} {p : List Byte}

theorem parseFrame_encodeH (hwf : c.wf = true) (hch : c.hdr.chunked h.flags = false)
    (hp : c.lebFits p.length = true) :
    parseFrame c (encodePrefix c h ++ leb p.length ++ p)
      = .ok { hdr := h, len := p.length, idx := none, hsize := 3 + (leb p.length).length, payload := p,
              trailing := false } := by
  have hparse := parseFrame_unchunked hwf (leb_valid p.length) (leb_length_le (varintMaxBytes_pos hwf) hp)
    (lebValue_leb p.length) hch []
  rwa [List.append_nil] at hparse

theorem parseFrame_encodeHC (hwf : c.wf = true) (hch : c.hdr.chunked h.flags = true) {t : Nat}
    (ht : c.lebFits t = true) (hp : c.lebFits p.length = true) :
    parseFrame c (encodePrefix c h ++ leb p.length ++ leb t ++ p)
      = .ok { hdr := h, len := p.length, idx := some t, hsize := 3 + (leb p.length).length + (leb t).length,
              payload := p, trailing := false } := by
  have hpos := varintMaxBytes_pos hwf
  have hparse := parseFrame_chunked hwf (leb_valid p.length) (leb_length_le hpos hp) (lebValue_leb p.length) hch
    (leb_valid t) (leb_length_le hpos ht) []
  rwa [List.append_nil, lebValue_leb] at hparse

end

section
variable {x : Ctx} {h : Hdr} {p : List Byte}

theorem decode_encodeH_framing (hwf : x.cfg.wf = true) (hch : x.cfg.hdr.chunked h.flags = false)
    (hp : x.cfg.lebFits p.length = true) : decode x .framing (encodeH x.cfg h p) = .ok (.msg h p) := by
  simp only [decode, encodeH, parseFrame_encodeH hwf hch hp]
  rfl

/-- The row of a chunked frame (rule R96). -/
theorem decode_encodeHC (hwf : x.cfg.wf = true) (hch : x.cfg.hdr.chunked h.flags = true) {t : Nat}
    (ht : x.cfg.lebFits t = true) (hp : x.cfg.lebFits p.length = true) :
    decode x .framing (encodeHC x.cfg h t p)
      = .ok (if t = 0 ∧ p.length = 0 then .chkNop h
             else if x.cfg.hdr.chunkStart h.flags then .chkS h t p
             else if x.openTotal = some t ∧ p.length = 0 then .chkE h t
             else .chkD h t p) := by
  simp only [decode, encodeHC, parseFrame_encodeHC hwf hch ht hp]
  rfl

end

section
variable {x : Ctx} {m : Message}

theorem parseFrame_encodeMessage (hwf : x.cfg.wf = true) (hm : m.wf x.cfg = true) :
    ∃ p, encodeMessage x.cfg m = .frame (encodePrefix x.cfg ⟨m.cmd, m.flags, m.seq⟩ ++ leb m.data.length ++ m.data)
      ∧ parseFrame x.cfg (encodePrefix x.cfg ⟨m.cmd, m.flags, m.seq⟩ ++ leb m.data.length ++ m.data) = .ok p
      ∧ p.idx = none ∧ p.message = m := by
  simp only [Message.wf, Bool.and_eq_true, Bool.not_eq_true'] at hm
  exact ⟨_, rfl, parseFrame_encodeH hwf hm.1 hm.2, rfl, rfl⟩

theorem decode_encodeMessage_dispatch (hwf : x.cfg.wf = true) (hm : m.wf x.cfg = true) :
    decode x .dispatch (encodeMessage x.cfg m) = .ok (decodeMessage x.cfg m) := by
  obtain ⟨p, henc, hparse, hidx, hmsg⟩ := parseFrame_encodeMessage hwf hm
  simp only [henc, decode, hparse, hidx, hmsg]

theorem decode_encodeMessage_report (hwf : x.cfg.wf = true) (hm : m.wf x.cfg = true) :
    decode x .report (encodeMessage x.cfg m) = .ok (decodeReport x.cfg x.kind m) := by
  obtain ⟨p, henc, hparse, hidx, hmsg⟩ := parseFrame_encodeMessage hwf hm
  simp only [henc, decode, hparse, hidx, hmsg]

end

/-! ## Level 1 -/

/-- A well-formed level-1 row: the chunk bits, the index and an empty payload select it (rules R95, R96). -/
theorem decode_encode_framing {x : Ctx} {i : Instr} (hwf : x.cfg.wf = true) (hl : i.level = .framing)
    (hi : i.wf x = true) : decode x .framing (encode x.cfg i) = .ok i := by
  have hzero : x.cfg.lebFits 0 = true := decide_eq_true (Nat.two_pow_pos _)
  have hchunked {f : Byte} (hs : x.cfg.hdr.chunkStart f = true) : x.cfg.hdr.chunked f = true := by
    rw [HdrCfg.chunked, ← HdrCfg.chunkStart, hs, Bool.true_or]
  cases i with
  | msg h p =>
    simp only [Instr.wf, Bool.and_eq_true, Bool.not_eq_true'] at hi
    exact decode_encodeH_framing hwf hi.1 hi.2
  | chkNop h => exact (decode_encodeHC (p := []) hwf hi hzero hzero).trans (by simp)
  | chkS h t p =>
    simp only [Instr.wf, Bool.and_eq_true, Bool.not_eq_true'] at hi
    obtain ⟨⟨⟨hs, ht⟩, hp⟩, hnop⟩ := hi
    refine (decode_encodeHC hwf (hchunked hs) ht hp).trans ?_
    rw [if_neg (by simpa using hnop), if_pos hs]
  | chkE h t =>
    simp only [Instr.wf, Bool.and_eq_true, Bool.not_eq_true', bne_iff_ne, beq_iff_eq] at hi
    obtain ⟨⟨⟨⟨hch, hs⟩, ht⟩, hne⟩, hopen⟩ := hi
    refine (decode_encodeHC (p := []) hwf hch ht hzero).trans ?_
    simp [hne, hs, hopen]
  | chkD h t p =>
    simp only [Instr.wf, Bool.and_eq_true, Bool.not_eq_true'] at hi
    obtain ⟨⟨⟨⟨⟨hch, hs⟩, ht⟩, hp⟩, hnop⟩, hend⟩ := hi
    refine (decode_encodeHC hwf hch ht hp).trans ?_
    rw [if_neg (by simpa using hnop), if_neg (by simp [hs]), if_neg (by simpa using hend)]
  | _ => nomatch hl

/-! ## Level 2 -/

theorem cmds_nodup {c : Cfg} (hwf : c.wf = true) : c.cmd.list.Nodup := by
  simp only [Cfg.wf, Bool.and_eq_true, decide_eq_true_eq] at hwf
  tauto

/-- The command id of a well-formed level-2 row selects that row: the eight ids differ (rule R97). -/
theorem decodeMessage_of_wf {x : Ctx} {i : Instr} (hwf : x.cfg.wf = true) (hl : i.level = .dispatch)
    (hi : i.wf x = true) :
    ∃ m, encode x.cfg i = encodeMessage x.cfg m ∧ m.wf x.cfg = true ∧ decodeMessage x.cfg m = i := by
  have hnodup := cmds_nodup hwf
  simp only [CmdCfg.list, List.nodup_cons, List.mem_cons, not_or] at hnodup
  cases i with
  | ack m | arrival m | descriptor m | auth m | keystroke m | serial m | input m | ghlInput m =>
    simp only [Instr.wf, Bool.and_eq_true, beq_iff_eq] at hi
    refine ⟨m, rfl, hi.1, ?_⟩
    rw [decodeMessage]
    grind
  | other m =>
    simp only [Instr.wf, Bool.and_eq_true, CmdCfg.isOther, CmdCfg.list] at hi
    refine ⟨m, rfl, hi.1, ?_⟩
    simp_all [decodeMessage]
  | _ => nomatch hl

/-! ## Level 3 -/

/-- The legacy demultiplexer's rows need its mapper, the unit, and the command id (rule R302). -/
theorem selLgy_iff (x : Ctx) (m : Message) (sel : LgyCfg → Byte) :
    x.selLgy m sel = true ↔ x.kind = .legacyDemux ∧ ∃ l, x.cfg.lgy = some l ∧ m.cmd = sel l := by
  rw [Ctx.selLgy]
  cases x.cfg.lgy <;> simp

theorem decodeReport_legacy {c : Cfg} {l : LgyCfg} (hlgy : c.lgy = some l) (m : Message) :
    decodeReport c .legacyDemux m = decodeLegacy l m := by
  simp [decodeReport, hlgy]

/-- The three command ids of the legacy demultiplexer differ (rule R300). -/
theorem lgy_cmds_ne {c : Cfg} {l : LgyCfg} (hwf : c.wf = true) (hlgy : c.lgy = some l) :
    l.cmdDisconnect ≠ l.cmdConnect ∧ l.cmdInput ≠ l.cmdConnect ∧ l.cmdInput ≠ l.cmdDisconnect := by
  have hok : l.ok c.cmd.list = true := by
    simp only [Cfg.wf, hlgy, Bool.and_eq_true] at hwf
    exact hwf.2
  simp only [LgyCfg.ok, Bool.and_eq_true, decide_eq_true_eq, List.cons_append, List.nodup_cons, List.mem_cons,
    not_or] at hok
  grind

/-- The report rows need a command id that is no guide key event (rule R240). -/
theorem report_cmds_ne_keystroke {c : Cfg} (hwf : c.wf = true) :
    c.cmd.input ≠ c.cmd.keystroke ∧ c.cmd.ghlInput ≠ c.cmd.keystroke := by
  have hnodup := cmds_nodup hwf
  simp only [CmdCfg.list, List.nodup_cons, List.mem_cons, not_or] at hnodup
  grind

/-- A message that no other row selects is a NOOP (rule R241). -/
theorem decodeReport_of_selNoop {x : Ctx} {m : Message} (h : x.selNoop m = true) :
    decodeReport x.cfg x.kind m = .noop m := by
  simp only [Ctx.selNoop, Bool.and_eq_true, Bool.not_eq_true', Bool.eq_false_iff, ne_eq, selLgy_iff, Ctx.selGuide,
    Ctx.selGtr, Ctx.selDrm, Ctx.selGhl, Ctx.selPad, Ctx.selFb, beq_iff_eq, bne_iff_ne, and_assoc] at h
  obtain ⟨hconnect, hdisconnect, hlgyInput, hguide, hgtr, hdrm, hghl, hpad, hfb⟩ := h
  by_cases hk : x.kind = .legacyDemux
  · rw [hk]
    cases hlgy : x.cfg.lgy with
    | none => simp [decodeReport, hlgy]
    | some l =>
      rw [decodeReport_legacy hlgy, decodeLegacy, if_neg fun e => hconnect ⟨hk, l, hlgy, e⟩,
        if_neg fun e => hdisconnect ⟨hk, l, hlgy, e⟩, if_neg fun e => hlgyInput ⟨hk, l, hlgy, e⟩]
  · have hkey : m.cmd ≠ x.cfg.cmd.keystroke := fun e => hguide ⟨hk, e⟩
    have hfallback : x.kind ≠ .fallback := fun e => hfb ⟨e, hkey⟩
    rw [decodeReport, if_neg hk, if_neg hkey, if_neg hgtr, if_neg hdrm, if_neg hghl, if_neg hpad, if_neg hfallback]

/-- A well-formed level-3 row is the one its message selects under the slot's mapper (rules R98, R240, R302). -/
theorem decodeReport_of_wf {x : Ctx} {i : Instr} (hwf : x.cfg.wf = true) (hl : i.level = .report)
    (hi : i.wf x = true) :
    ∃ m, encode x.cfg i = encodeMessage x.cfg m ∧ m.wf x.cfg = true ∧ decodeReport x.cfg x.kind m = i := by
  obtain ⟨hinput, hghl⟩ := report_cmds_ne_keystroke hwf
  cases i with
  | inputGtr m =>
    simp only [Instr.wf, Ctx.selGtr, Bool.and_eq_true, beq_iff_eq] at hi
    obtain ⟨hm, ⟨hk, hcmd⟩, hlen⟩ := hi
    exact ⟨m, rfl, hm, by simp [decodeReport, hk, hcmd, hinput, hlen]⟩
  | inputDrm m =>
    simp only [Instr.wf, Ctx.selDrm, Bool.and_eq_true, beq_iff_eq] at hi
    obtain ⟨hm, ⟨hk, hcmd⟩, hlen⟩ := hi
    exact ⟨m, rfl, hm, by simp [decodeReport, hk, hcmd, hinput, hlen]⟩
  | ghlInputGhl m =>
    simp only [Instr.wf, Ctx.selGhl, Bool.and_eq_true, beq_iff_eq] at hi
    obtain ⟨hm, ⟨hk, hcmd⟩, hlen⟩ := hi
    exact ⟨m, rfl, hm, by simp [decodeReport, hk, hcmd, hghl, hlen]⟩
  | inputPad m =>
    simp only [Instr.wf, Ctx.selPad, Bool.and_eq_true, beq_iff_eq] at hi
    obtain ⟨hm, ⟨⟨hpad, hk⟩, hcmd⟩, hlen⟩ := hi
    exact ⟨m, rfl, hm, by simp [decodeReport, hpad, hk, hcmd, hinput, hlen]⟩
  | inputFb m =>
    simp only [Instr.wf, Ctx.selFb, Bool.and_eq_true, beq_iff_eq, bne_iff_ne] at hi
    obtain ⟨hm, hk, hcmd⟩ := hi
    exact ⟨m, rfl, hm, by simp [decodeReport, hk, hcmd]⟩
  | keystrokeGuide m =>
    simp only [Instr.wf, Ctx.selGuide, Bool.and_eq_true, beq_iff_eq, bne_iff_ne] at hi
    obtain ⟨hm, hk, hcmd⟩ := hi
    exact ⟨m, rfl, hm, by simp [decodeReport, hk, hcmd]⟩
  | lgyConnect m | lgyDisconnect m | lgyInput m =>
    simp only [Instr.wf, Bool.and_eq_true, selLgy_iff] at hi
    obtain ⟨hm, hk, l, hlgy, hcmd⟩ := hi
    obtain ⟨hdc, hic, hid⟩ := lgy_cmds_ne hwf hlgy
    exact ⟨m, rfl, hm, by rw [hk, decodeReport_legacy hlgy]; simp [decodeLegacy, hcmd, hdc, hic, hid]⟩
  | noop m =>
    simp only [Instr.wf, Bool.and_eq_true] at hi
    exact ⟨m, rfl, hi.1, decodeReport_of_selNoop hi.2⟩
  | _ => nomatch hl

/-! ## The control port -/

theorem decode_encode_control (x : Ctx) {i : Instr} (hl : i.level = .control) :
    decode x .control (encode x.cfg i) = .ok i := by
  cases i with
  | reset | close k | sinkLost k | csrRead n | csrW1c n mask => rfl
  | _ => nomatch hl

/-! ## Every level -/

/-- Settles O1, by the level of the row. -/
theorem decodeEncodeRoundTrip : Obligations.DecodeEncodeRoundTrip := by
  unfold Obligations.DecodeEncodeRoundTrip
  intro x i hwf hi
  cases hl : i.level with
  | framing => exact decode_encode_framing hwf hl hi
  | dispatch =>
    obtain ⟨m, henc, hm, hrow⟩ := decodeMessage_of_wf hwf hl hi
    rw [henc, decode_encodeMessage_dispatch hwf hm, hrow]
  | report =>
    obtain ⟨m, henc, hm, hrow⟩ := decodeReport_of_wf hwf hl hi
    rw [henc, decode_encodeMessage_report hwf hm, hrow]
  | control => exact decode_encode_control x hl

/-- Settles O5, by running the decoder on each word. -/
theorem writtenOutWordsDecode : Obligations.WrittenOutWordsDecode := by
  unfold Obligations.WrittenOutWordsDecode
  exact ⟨rfl, rfl, rfl, rfl, rfl, rfl, rfl⟩

end Sys2Proof.Machine
end

section
/-! The step of an assigned control operation is its row alone (rules R99, R340). -/

namespace Sys2Proof.Machine

theorem decode_control_iff (x : Ctx) (op : Nat) (key : Key) (n : Nat) (mask : BitVec 16) (i : Instr) :
    decode x .control (.control op key n mask) = .ok i ↔ decodeControl op key n mask = some i := by
  cases h : decodeControl op key n mask <;> simp [decode, h]

/-- A control operation's row ends the step itself. -/
theorem control_row_done {i : Instr} (hl : i.level = .control) (s : State) :
    ∃ t, exec i s = .next t ∧ t.work.stage = .done := by
  have hdone (h : ∃ t, exec i s = .next t ∧ EndsInOrder s t) : ∃ t, exec i s = .next t ∧ t.work.stage = .done := by
    obtain ⟨t, ht, -, -, -, hstage, -⟩ := h
    exact ⟨t, ht, hstage⟩
  cases i with
  | reset => exact hdone (reset_ends s)
  | close k => exact hdone (close_ends k s)
  | sinkLost k => exact hdone (sinkLost_ends k s)
  | csrRead n => exact ⟨_, rfl, rfl⟩
  | csrW1c n mask => exact hdone (csrW1c_ends n mask s)
  | _ => nomatch hl

/-- Settles O7: the row ends the step, so that no stage waits after it. -/
theorem stepRunsControlOperation : Obligations.StepRunsControlOperation := by
  unfold Obligations.StepRunsControlOperation
  intro s x op n key mask rest i hin hdec
  have hop := (decode_control_iff x op key n mask i).mp hdec
  obtain ⟨t, ht, hdone⟩ := control_row_done (decodeControl_level hop) (stepStart rest s)
  have hrows : runRows i (stepStart rest s) = .next t := by simp [runRows, andThen, ht, runNext, nextInstr, hdone]
  calc step s = .next (endStep t) := step_of_run hin (by simp only [fetch, hop]) hrows
    _ = andThen (exec i (stepStart rest s)) (fun t => .next (endStep t)) := by rw [ht, andThen]

end Sys2Proof.Machine
end

section
/-! LEB128 fields that `read_leb` rejects, and the range of the ones it reads (rules R9, R133, R138). -/

namespace Sys2Proof.Machine

/-! ## The value of a field -/

/-- Each byte adds seven bits: the sum from byte number `i` on stays below the first power of two it leaves free. The term
`2 ^ (7 * i)` stands for the carry out of the bytes before. -/
theorem lebValue_add_le (enc : List Byte) (i : Nat) : lebValue i enc + 2 ^ (7 * i) ≤ 2 ^ (7 * (i + enc.length)) := by
  induction enc generalizing i with
  | nil => simp [lebValue]
  | cons b rest ih =>
    have hbyte : (b &&& 0x7F#8).toNat ≤ 127 := Nat.and_le_right
    have hpow : 2 ^ (7 * (i + 1)) = 128 * 2 ^ (7 * i) := by rw [Nat.mul_succ, Nat.pow_add, Nat.mul_comm]
    have hrest := ih (i + 1)
    rw [hpow, Nat.add_right_comm, Nat.add_assoc i] at hrest
    calc lebValue i (b :: rest) + 2 ^ (7 * i)
        ≤ 127 * 2 ^ (7 * i) + lebValue (i + 1) rest + 2 ^ (7 * i) :=
          Nat.add_le_add_right (Nat.add_le_add_right (Nat.mul_le_mul_right _ hbyte) _) _
      _ = lebValue (i + 1) rest + 128 * 2 ^ (7 * i) := by omega
      _ ≤ 2 ^ (7 * (i + (b :: rest).length)) := hrest

/-- A field of at most `VARINT_MAX_BYTES` bytes has `LEN_W` bits. -/
theorem lebValue_lt {c : Cfg} {enc : List Byte} (hlen : enc.length ≤ c.varintMaxBytes) : lebValue 0 enc < 2 ^ c.lenW := by
  have hsum := lebValue_add_le enc 0
  have hpow : 2 ^ (7 * enc.length) ≤ 2 ^ c.lenW := Nat.pow_le_pow_right (by decide) (Nat.mul_le_mul_left 7 hlen)
  rw [Nat.zero_add, Nat.mul_zero, Nat.pow_zero] at hsum
  omega

/-- Settles O2: the loop takes exactly the encoding, whose value has seven bits for each byte. -/
theorem readLebReadsEveryEncoding : Obligations.ReadLebReadsEveryEncoding := by
  unfold Obligations.ReadLebReadsEveryEncoding
  intro c pre enc post which hv hlen
  exact ⟨readLeb_of_validLeb which rfl rfl hv hlen, lebValue_lt hlen⟩

/-! ## A field that is not ended -/

/-- The frame holds `n` continuation bytes from `pos` on. -/
abbrev Continues (fr : List Byte) (pos n : Nat) : Prop :=
  ∀ i, i < n → ∃ b, fr[pos + i]? = some b ∧ b.getLsbD 7 = true

theorem Continues.head {fr : List Byte} {pos n : Nat} (h : Continues fr pos (n + 1)) :
    ∃ b, fr[pos]? = some b ∧ b.getLsbD 7 = true := h 0 n.succ_pos

theorem Continues.tail {fr : List Byte} {pos n : Nat} (h : Continues fr pos (n + 1)) : Continues fr (pos + 1) n := by
  intro i hi
  rw [Nat.add_right_comm]
  exact h (i + 1) (Nat.succ_lt_succ hi)

theorem continues_of_unendedLeb {fr pre bs post : List Byte} {pos : Nat} (hfr : fr = pre ++ bs ++ post)
    (hpos : pos = pre.length) (h : unendedLeb bs = true) : Continues fr pos bs.length := by
  subst hfr hpos
  intro i hi
  refine ⟨bs[i], ?_, List.all_eq_true.mp h _ (List.getElem_mem hi)⟩
  rw [List.append_assoc, List.getElem?_append_right (Nat.le_add_right _ _), Nat.add_sub_cancel_left,
    List.getElem?_append_left hi, List.getElem?_eq_getElem hi]

/-- The loop of `read_leb` goes on over continuation bytes. -/
theorem readLebFrom_of_continues (which fuel : Nat) {fr : List Byte} {n pos : Nat} (h : Continues fr pos n) (i v : Nat) :
    ∃ v', readLebFrom fr which (n + fuel) i pos v = readLebFrom fr which fuel (i + n) (pos + n) v' := by
  induction n generalizing pos i v with
  | zero => exact ⟨v, by rw [Nat.zero_add]; rfl⟩
  | succ n ih =>
    obtain ⟨b, hb, h7⟩ := h.head
    obtain ⟨v', hv'⟩ := ih h.tail (i + 1) (v + (b &&& 0x7F#8).toNat * 2 ^ (7 * i))
    refine ⟨v', ?_⟩
    rw [Nat.add_right_comm n, readLebFrom, hb]
    simp only [h7, if_true]
    rw [hv', Nat.add_right_comm i, Nat.add_right_comm pos]
    rfl

/-- `VARINT_MAX_BYTES` continuation bytes use up the loop, whatever follows (rule R133). -/
theorem readLeb_of_overlong {c : Cfg} {fr : List Byte} {pos : Nat} (which : Nat)
    (h : Continues fr pos c.varintMaxBytes) : readLeb c fr which pos = .bad (.varintLong which (pos + c.varintMaxBytes)) := by
  obtain ⟨v, hv⟩ := readLebFrom_of_continues which 0 h 0 0
  exact hv

/-- The frame ends before the loop does (rule R133). -/
theorem readLeb_of_cutOff {c : Cfg} {fr : List Byte} {pos k : Nat} (which : Nat) (hk : k < c.varintMaxBytes)
    (hend : fr.length = pos + k) (h : Continues fr pos k) :
    readLeb c fr which pos = .bad (.varintTrunc which (pos + k)) := by
  obtain ⟨fuel, hfuel⟩ := Nat.exists_eq_add_of_lt hk
  obtain ⟨v, hv⟩ := readLebFrom_of_continues which (fuel + 1) h 0 0
  have hnone : fr[pos + k]? = none := List.getElem?_eq_none (Nat.le_of_eq hend)
  rw [readLeb, hfuel, Nat.add_assoc, hv, readLebFrom, hnone]

/-- Settles O3, by running the loop over the continuation bytes to its end or to the frame's. -/
theorem lebFieldRejections : Obligations.LebFieldRejections := by
  unfold Obligations.LebFieldRejections
  intro c fr which pos
  exact ⟨readLeb_of_overlong which, fun k => readLeb_of_cutOff which⟩

end Sys2Proof.Machine
end

section
/-! How a frame's step ends before its first row (rules R131, R135), and the row it runs otherwise (rules R130, R97, R98). -/

namespace Sys2Proof.Machine

/-! ## An exception ends the step -/

theorem raise_of_invalid {c : Code} (h : c.cls = .invalid) (v : Nat) (s : State) :
    raise c v s = endedWith s.slots 0x0001 [] c (info32 v) s := by
  rw [raise, h, endedWith, List.append_nil]
  rfl

theorem raise_of_unsupported {c : Code} (h : c.cls = .unsupported) (v : Nat) (s : State) :
    raise c v s = endedWith s.slots 0x0002 [] c (info32 v) s := by
  rw [raise, h, endedWith, List.append_nil]
  rfl

/-! ## ROUTE -/

theorem route_of_findKey {key : Key} {s : State} {i : Nat} (h : findKey key s.slots = some i) :
    route key s = some (select i s) := by simp [route, h]

theorem route_of_findFree {key : Key} {s : State} {i : Nat} (hk : findKey key s.slots = none)
    (hf : findFree s.slots = some i) : route key s = some (select i (allocate i key s)) := by simp [route, hk, hf]

theorem route_of_full {key : Key} {s : State} (hk : findKey key s.slots = none) (hf : findFree s.slots = none) :
    route key s = none := by simp [route, hk, hf]

theorem slot_of_findKey {key : Key} {s : State} {i : Nat} (h : findKey key s.slots = some i) :
    (s.slot i).valid = true ∧ (s.slot i).tag = key := by
  obtain ⟨x, hx, hvalid, htag⟩ := findKey_some h
  rw [slot_of_getElem? hx]
  exact ⟨hvalid, htag⟩

/-- The free slot is the lowest: every slot below it is valid. -/
theorem slot_of_findFree {s : State} {i : Nat} (h : findFree s.slots = some i) :
    (s.slot i).valid = false ∧ ∀ j, j < i → (s.slot j).valid = true := by
  obtain ⟨x, hx, hfree, hbelow⟩ := findFree_some h
  refine ⟨by rw [slot_of_getElem? hx, hfree], fun j hj => ?_⟩
  exact hbelow j _ hj (getElem?_slot (hj.trans (lt_of_findFree h)))

/-- Settles O21, by what the two searches of ROUTE answer. -/
theorem routeSelectsOrAllocates : Obligations.RouteSelectsOrAllocates := by
  unfold Obligations.RouteSelectsOrAllocates
  intro s key
  refine ⟨fun i hk => ?_, fun i hk hf => ?_, fun hk hfull => route_of_full hk (findFree_none.mpr hfull)⟩
  · obtain ⟨hvalid, htag⟩ := slot_of_findKey hk
    exact ⟨hvalid, htag, route_of_findKey hk⟩
  · obtain ⟨hfree, hbelow⟩ := slot_of_findFree hf
    have hlenW (v : Nat) : v % 2 ^ s.cfg.lenW < 2 ^ s.cfg.lenW := Nat.mod_lt _ (Nat.two_pow_pos _)
    exact ⟨hfree, hbelow, _, _, hlenW _, hlenW _, route_of_findFree hk hf⟩

/-! ## A frame turned away -/

/-- Settles O20: both frames are turned away before a slot is selected or a header read. -/
theorem frameTurnedAwayBeforeItsHeader : Obligations.FrameTurnedAwayBeforeItsHeader := by
  unfold Obligations.FrameTurnedAwayBeforeItsHeader
  intro s key bytes o r rest hin
  refine ⟨fun hlen => ?_, fun hlen hfull => ?_⟩
  · rw [step_of_oversize hin hlen, raise_of_invalid rfl]
    rfl
  · have hk : findKey key s.slots = none := findKey_none.mpr fun x hx _ => (hfull x hx).2
    have hf : findFree s.slots = none := findFree_none.mpr fun x hx => (hfull x hx).1
    rw [step_of_full hin hlen hk hf, raise_of_unsupported rfl]
    rfl

/-! ## A frame that is run -/

/-- The first row of a step and the rows it leads to, from the start of the step on. -/
theorem step_of_fetch {s t : State} {i : Instr} {inp : Input} {rest : List Input} (h : s.inputs = inp :: rest)
    (hf : fetch inp (stepStart rest s) = .run i t) : step s = andThen (runRows i t) (fun u => .next (endStep u)) := by
  rw [stepStart] at hf
  simp [step, h, hf]

/-- The level-1 row of a frame is the one that its parts select (rule R96). -/
theorem decode_framing_ok {x : Ctx} {bytes : List Byte} {i : Instr} (h : decode x .framing (.frame bytes) = .ok i) :
    ∃ p, parseFrame x.cfg bytes = .ok p ∧ i = decodeFraming x p := by
  cases hp : parseFrame x.cfg bytes with
  | bad hd why => simp [decode, hp] at h
  | ok p => exact ⟨p, rfl, by simpa [decode, hp, eq_comm] using h⟩

theorem fetchHeader_of_ok {s : State} {bytes : List Byte} {p : Parsed} (h : parseFrame s.cfg bytes = .ok p) :
    fetchHeader bytes s = .run (decodeFraming s.ctx p)
      (if p.trailing then raiseEv .trailing (setHdr (some p.hdr) s) else setHdr (some p.hdr) s) := by
  simp [fetchHeader, h]

theorem runNext_of_done {s : State} (h : s.work.stage = .done) : runNext s = .next s := by
  simp [runNext, nextInstr, h]

/-- Settles O6: the start of the step hands over the decoded row, and the stage alone chooses the row that follows. -/
theorem stepRunsDecodedFrame : Obligations.StepRunsDecodedFrame := by
  unfold Obligations.StepRunsDecodedFrame
  refine ⟨fun s s1 key bytes o r rest i hin hlen hroute hdec => ?_,
    fun s m => ⟨runNext_of_message, runNext_of_report, runNext_of_done⟩⟩
  obtain ⟨p, hp, rfl⟩ := decode_framing_ok hdec
  have hfetch : fetch (.deliver key bytes o r) (stepStart rest s) = fetchHeader bytes s1 :=
    fetchFrame_of_route_some hlen hroute
  exact ⟨p, hp, rfl, step_of_fetch hin (hfetch.trans (fetchHeader_of_ok hp))⟩

end Sys2Proof.Machine
end

section
/-! Frames that HDR and the payload extraction reject (rules R132, R133, R134, R136), and the Invalid result in which the
step of such a frame ends (rule R322). -/

namespace Sys2Proof.Machine

/-! ## The first three bytes -/

theorem readPrefix_of_short {c : Cfg} {fr : List Byte} (h : fr.length < 3) : readPrefix c fr = none := if_pos h

theorem readPrefix_of_long (c : Cfg) {fr : List Byte} (h : 3 ≤ fr.length) : ∃ hd, readPrefix c fr = some hd :=
  ⟨_, if_neg (Nat.not_lt.mpr h)⟩

/-- The byte at an offset inside the frame, as the rules read it. -/
theorem getElem?_eq_byteAt {fr : List Byte} {a : Nat} (h : a < fr.length) : fr[a]? = some (byteAt fr a) := by
  simp [byteAt, h]

/-- The header is made of the frame's bytes at the configured offsets (rule R132). -/
theorem getElem?_of_readPrefix {c : Cfg} {fr : List Byte} {hd : Hdr} (hok : c.hdr.ok = true)
    (h : readPrefix c fr = some hd) :
    fr[c.hdr.cmdOff]? = some hd.cmd ∧ fr[c.hdr.flagsOff]? = some hd.flags ∧ fr[c.hdr.seqOff]? = some hd.seq := by
  simp only [HdrCfg.ok, Bool.and_eq_true, decide_eq_true_eq] at hok
  obtain ⟨hcmd, hflags, hseq⟩ : c.hdr.cmdOff < 3 ∧ c.hdr.flagsOff < 3 ∧ c.hdr.seqOff < 3 := by tauto
  rw [readPrefix] at h
  split at h
  · cases h
  · next hlong =>
    obtain rfl := Option.some.inj h
    have hlen : 3 ≤ fr.length := Nat.le_of_not_lt hlong
    exact ⟨getElem?_eq_byteAt (by omega), getElem?_eq_byteAt (by omega), getElem?_eq_byteAt (by omega)⟩

/-! ## Everything that can be rejected -/

/-- What a rejection behind the first three bytes reports: a cursor inside the frame, at its end for a field cut off, or the number of
payload bytes present. -/
inductive FieldReject (fr : List Byte) : Reject → Prop where
  | cutOff (which : Nat) : FieldReject fr (.varintTrunc which fr.length)
  | overlong (which : Nat) {pos : Nat} (h : pos ≤ fr.length) : FieldReject fr (.varintLong which pos)
  | payload {present : Nat} (h : present ≤ fr.length) : FieldReject fr (.payloadShort present)

/-- Everything the loop of `read_leb` can answer from a cursor inside the frame (rule R133). -/
theorem readLebFrom_cases (which fuel : Nat) {fr : List Byte} {pos : Nat} (h : pos ≤ fr.length) (i v : Nat) :
    (∃ v' pos', readLebFrom fr which fuel i pos v = .value v' pos' ∧ pos' ≤ fr.length)
      ∨ ∃ why, readLebFrom fr which fuel i pos v = .bad why ∧ FieldReject fr why := by
  induction fuel generalizing pos i v with
  | zero => exact .inr ⟨_, rfl, .overlong which h⟩
  | succ fuel ih =>
    rw [readLebFrom]
    cases hb : fr[pos]? with
    | none =>
      have hend : pos = fr.length := Nat.le_antisymm h (List.getElem?_eq_none_iff.mp hb)
      exact .inr ⟨_, rfl, hend ▸ .cutOff which⟩
    | some b =>
      have hnext : pos + 1 ≤ fr.length := (List.getElem?_eq_some_iff.mp hb).1
      cases h7 : b.getLsbD 7 with
      | true =>
        simp only [h7, if_true]
        exact ih hnext _ _
      | false =>
        simp only [h7, Bool.false_eq_true, if_false]
        exact .inl ⟨_, _, rfl, hnext⟩

theorem extractPayload_bad {fr : List Byte} {hd : Hdr} {len pos : Nat} {idx : Option Nat} {h : Option Hdr} {why : Reject}
    (hbad : extractPayload fr hd len idx pos = .bad h why) : h = some hd ∧ FieldReject fr why := by
  rw [extractPayload] at hbad
  split at hbad
  · cases hbad
    exact ⟨rfl, .payload (Nat.sub_le _ _)⟩
  · cases hbad

/-- Everything a rejection can be: fewer than three bytes, or behind a header that was read (rules R132 to R136). -/
theorem parseFrame_bad_cases {c : Cfg} {fr : List Byte} {h : Option Hdr} {why : Reject}
    (hbad : parseFrame c fr = .bad h why) :
    (fr.length < 3 ∧ h = none ∧ why = .hdrShort fr.length)
      ∨ (3 ≤ fr.length ∧ ∃ hd, readPrefix c fr = some hd ∧ h = some hd ∧ FieldReject fr why) := by
  by_cases hshort : fr.length < 3
  · rw [parseFrame, readPrefix_of_short hshort] at hbad
    cases hbad
    exact .inl ⟨hshort, rfl, rfl⟩
  · have hlong : 3 ≤ fr.length := Nat.le_of_not_lt hshort
    obtain ⟨hd, hprefix⟩ := readPrefix_of_long c hlong
    refine .inr ⟨hlong, hd, hprefix, ?_⟩
    simp only [parseFrame, hprefix, readLeb] at hbad
    rcases readLebFrom_cases 0 c.varintMaxBytes hlong 0 0 with ⟨len, pos, hlen, hpos⟩ | ⟨r, hlen, hr⟩
    · rw [hlen] at hbad
      cases hch : c.hdr.chunked hd.flags with
      | false =>
        simp only [hch, Bool.false_eq_true, if_false] at hbad
        exact extractPayload_bad hbad
      | true =>
        simp only [hch, if_true] at hbad
        rcases readLebFrom_cases 1 c.varintMaxBytes hpos 0 0 with ⟨idx, pos', hidx, -⟩ | ⟨r, hidx, hr⟩
        · rw [hidx] at hbad
          exact extractPayload_bad hbad
        · rw [hidx] at hbad
          cases hbad
          exact ⟨rfl, hr⟩
    · rw [hlen] at hbad
      cases hbad
      exact ⟨rfl, hr⟩

/-! ## Which frames are rejected -/

theorem parseFrame_of_short {c : Cfg} {fr : List Byte} (h : fr.length < 3) :
    parseFrame c fr = .bad none (.hdrShort fr.length) := by
  rw [parseFrame, readPrefix_of_short h]

section
variable {c : Cfg} {h : Hdr} {fr lenEnc idxEnc bs tail : List Byte}

theorem parseFrame_of_bad_length {why : Reject} (hprefix : readPrefix c fr = some h)
    (hlen : readLeb c fr 0 3 = .bad why) : parseFrame c fr = .bad (some h) why := by
  simp [parseFrame, hprefix, hlen]

theorem parseFrame_of_bad_index {len pos : Nat} {why : Reject} (hprefix : readPrefix c fr = some h)
    (hlen : readLeb c fr 0 3 = .value len pos) (hch : c.hdr.chunked h.flags = true)
    (hidx : readLeb c fr 1 pos = .bad why) : parseFrame c fr = .bad (some h) why := by
  simp [parseFrame, hprefix, hlen, hch, hidx]

theorem extractPayload_of_short {len pos : Nat} (h : Hdr) (idx : Option Nat) (hpos : fr.length = pos + tail.length)
    (hlen : tail.length < len) : extractPayload fr h len idx pos = .bad (some h) (.payloadShort tail.length) := by
  rw [extractPayload, if_pos (by omega), hpos, Nat.add_sub_cancel_left]

/-- A field of continuation bytes that the frame ends in (rule R133). -/
theorem readLeb_of_unended {pre : List Byte} {pos : Nat} (which : Nat) (hpos : pos = pre.length)
    (hbs : unendedLeb bs = true) (hmax : bs.length < c.varintMaxBytes) :
    readLeb c (pre ++ bs) which pos = .bad (.varintTrunc which (pos + bs.length)) :=
  readLeb_of_cutOff which hmax (by rw [hpos, List.length_append])
    (continues_of_unendedLeb (post := []) (by rw [List.append_nil]) hpos hbs)

/-- A field of `VARINT_MAX_BYTES` continuation bytes (rule R133). -/
theorem readLeb_of_full {pre : List Byte} {pos : Nat} (which : Nat) (tail : List Byte) (hpos : pos = pre.length)
    (hbs : unendedLeb bs = true) (hmax : bs.length = c.varintMaxBytes) :
    readLeb c (pre ++ bs ++ tail) which pos = .bad (.varintLong which (pos + bs.length)) := by
  rw [hmax]
  exact readLeb_of_overlong which (hmax ▸ continues_of_unendedLeb rfl hpos hbs)

/-- The header and the length field of a frame that starts with them (rules R91, R133). -/
theorem header_and_length (hwf : c.wf = true) (hvalid : validLeb lenEnc = true)
    (hmax : lenEnc.length ≤ c.varintMaxBytes) (hfr : fr = encodePrefix c h ++ lenEnc ++ tail) :
    readPrefix c fr = some h ∧ readLeb c fr 0 3 = .value (lebValue 0 lenEnc) (3 + lenEnc.length) := by
  refine ⟨?_, readLeb_of_validLeb 0 hfr rfl hvalid hmax⟩
  rw [hfr, List.append_assoc]
  exact readPrefix_encodePrefix (hdr_ok_of_wf hwf) h _

/-- The frame ends inside its length field or inside its index field. -/
theorem parseFrame_of_unended (hwf : c.wf = true) (hvalid : validLeb lenEnc = true)
    (hmax : lenEnc.length ≤ c.varintMaxBytes) (hbs : unendedLeb bs = true) (hcut : bs.length < c.varintMaxBytes) :
    parseFrame c (encodePrefix c h ++ bs) = .bad (some h) (.varintTrunc 0 (3 + bs.length))
    ∧ (c.hdr.chunked h.flags = true → parseFrame c (encodePrefix c h ++ lenEnc ++ bs)
        = .bad (some h) (.varintTrunc 1 (3 + lenEnc.length + bs.length))) := by
  refine ⟨?_, fun hch => ?_⟩
  · exact parseFrame_of_bad_length (readPrefix_encodePrefix (hdr_ok_of_wf hwf) h bs) (readLeb_of_unended 0 rfl hbs hcut)
  · obtain ⟨hprefix, hlen⟩ := header_and_length (h := h) (tail := bs) hwf hvalid hmax rfl
    exact parseFrame_of_bad_index hprefix hlen hch (readLeb_of_unended 1 (by simp) hbs hcut)

/-- The length field or the index field has no end. -/
theorem parseFrame_of_overlong (hwf : c.wf = true) (hvalid : validLeb lenEnc = true)
    (hmax : lenEnc.length ≤ c.varintMaxBytes) (hbs : unendedLeb bs = true) (hfull : bs.length = c.varintMaxBytes) :
    parseFrame c (encodePrefix c h ++ bs ++ tail) = .bad (some h) (.varintLong 0 (3 + bs.length))
    ∧ (c.hdr.chunked h.flags = true → parseFrame c (encodePrefix c h ++ lenEnc ++ bs ++ tail)
        = .bad (some h) (.varintLong 1 (3 + lenEnc.length + bs.length))) := by
  refine ⟨?_, fun hch => ?_⟩
  · have hprefix : readPrefix c (encodePrefix c h ++ bs ++ tail) = some h := by
      rw [List.append_assoc]
      exact readPrefix_encodePrefix (hdr_ok_of_wf hwf) h _
    exact parseFrame_of_bad_length hprefix (readLeb_of_full 0 tail rfl hbs hfull)
  · obtain ⟨hprefix, hlen⟩ := header_and_length (h := h) hwf hvalid hmax (List.append_assoc _ bs tail)
    exact parseFrame_of_bad_index hprefix hlen hch (readLeb_of_full 1 tail (by simp) hbs hfull)

/-- Fewer bytes follow the header than its length says (rule R136). -/
theorem parseFrame_of_short_payload (hwf : c.wf = true) (hvalid : validLeb lenEnc = true)
    (hmax : lenEnc.length ≤ c.varintMaxBytes) (hvalidIdx : validLeb idxEnc = true)
    (hmaxIdx : idxEnc.length ≤ c.varintMaxBytes) (hshort : tail.length < lebValue 0 lenEnc) :
    (c.hdr.chunked h.flags = false →
      parseFrame c (encodePrefix c h ++ lenEnc ++ tail) = .bad (some h) (.payloadShort tail.length))
    ∧ (c.hdr.chunked h.flags = true →
      parseFrame c (encodePrefix c h ++ lenEnc ++ idxEnc ++ tail) = .bad (some h) (.payloadShort tail.length)) := by
  refine ⟨fun hch => ?_, fun hch => ?_⟩
  · obtain ⟨hprefix, hlen⟩ := header_and_length (h := h) (tail := tail) hwf hvalid hmax rfl
    rw [parseFrame_of_fields hprefix hlen hch]
    exact extractPayload_of_short h none (by simp [Nat.add_assoc]) hshort
  · obtain ⟨hprefix, hlen⟩ := header_and_length (h := h) hwf hvalid hmax (List.append_assoc _ idxEnc tail)
    have hidx : readLeb c (encodePrefix c h ++ lenEnc ++ idxEnc ++ tail) 1 (3 + lenEnc.length)
        = .value (lebValue 0 idxEnc) (3 + lenEnc.length + idxEnc.length) :=
      readLeb_of_validLeb 1 rfl (by simp) hvalidIdx hmaxIdx
    rw [parseFrame_of_fields_chunked hprefix hlen hch hidx]
    exact extractPayload_of_short h _ (by simp [Nat.add_assoc]) hshort

end

/-! ## The step of a rejected frame -/

/-- A rejected frame ends its step in the result of its cause, on the selected slot, with the header that was read. -/
theorem step_of_rejected {s s1 : State} {key : Key} {bytes : List Byte} {o r : Bool} {rest : List Input}
    {h : Option Hdr} {why : Reject} (hin : s.inputs = .deliver key bytes o r :: rest)
    (hlen : bytes.length ≤ s.cfg.frameMax) (hroute : route key (frameStart key o r rest s) = some s1)
    (hbad : parseFrame s1.cfg bytes = .bad h why) (hcode : (rejectCode why).1.cls = .invalid) :
    step s = .next (endStep
      (endedWith s1.slots 0x0001 [] (rejectCode why).1 (info32 (rejectCode why).2) (setHdr h s1))) := by
  have hfetch : fetch (.deliver key bytes o r) (stepStart rest s) = fetchHeader bytes s1 :=
    fetchFrame_of_route_some hlen hroute
  rw [fetchHeader, hbad] at hfetch
  rw [step_of_ended hin hfetch, raise_of_invalid hcode, setHdr_slots]

/-- Settles O22: the parse of each malformed frame is computed field by field, and every rejection is one of the four. -/
theorem malformedFrameReportsItsCause : Obligations.MalformedFrameReportsItsCause := by
  unfold Obligations.MalformedFrameReportsItsCause
  refine ⟨fun c fr => parseFrame_of_short, fun c fr h why hwf hlen hbad => ?_,
    fun c h lenEnc idxEnc bs tail hwf hvalid hmax hvalidIdx hmaxIdx hbs =>
      ⟨parseFrame_of_unended hwf hvalid hmax hbs, parseFrame_of_overlong hwf hvalid hmax hbs,
        parseFrame_of_short_payload hwf hvalid hmax hvalidIdx hmaxIdx⟩,
    fun s s1 key bytes o r rest h why hin hmax hroute hbad => ?_⟩
  · rcases parseFrame_bad_cases hbad with ⟨hshort, -⟩ | ⟨-, hd, hprefix, rfl, -⟩
    · exact absurd hlen (Nat.not_le.mpr hshort)
    · exact ⟨hd, rfl, getElem?_of_readPrefix (hdr_ok_of_wf hwf) hprefix⟩
  · have hstep := step_of_rejected hin hmax hroute hbad
    rcases parseFrame_bad_cases hbad with ⟨hshort, rfl, rfl⟩ | ⟨-, hd, -, rfl, hwhy⟩
    · exact .inl ⟨rfl, rfl, hshort, hstep rfl⟩
    · cases hwhy with
      | cutOff which => exact .inr (.inl ⟨which, _, rfl, rfl, rfl, hstep rfl⟩)
      | overlong which hpos => exact .inr (.inr (.inl ⟨which, _, rfl, hpos, rfl, hstep rfl⟩))
      | payload hpresent => exact .inr (.inr (.inr ⟨_, rfl, hpresent, rfl, hstep rfl⟩))

end Sys2Proof.Machine
end

section
/-! The rows of the chunk reassembler, case by case, in the form in which a step's row ends (rules R151 to R158). -/

namespace Sys2Proof.Machine

/-! ## The form of an end -/

theorem finish_eq_endedWith (c : Code) (v : Nat) (s : State) : finish c v s = endedWith s.slots 0 [] c (info32 v) s := by
  simp only [endedWith, BitVec.ofNat_eq_ofNat, BitVec.or_zero, List.append_nil]
  rfl

theorem raise_of_pending {c : Code} (h : c.cls = .pending) (v : Nat) (s : State) :
    raise c v s = endedWith s.slots 0 [] c (info32 v) s := by
  rw [raise, h, raiseClass_pending, finish_eq_endedWith]

/-- An info value that fits its field is reported as it is (rule R321). -/
theorem info32_of_lt {v : Nat} (h : v < 2 ^ 32) : info32 v = BitVec.ofNat 32 v := if_pos h

theorem raise_invalid_setSlot {c : Code} (h : c.cls = .invalid) (v n : Nat) (x : Slot) (s : State) :
    raise c v (s.setSlot n x) = endedWith (s.slots.set n x) 0x0001 [] c (info32 v) s :=
  raise_of_invalid h v (s.setSlot n x)

theorem raise_pending_setSlot {c : Code} (h : c.cls = .pending) (v n : Nat) (x : Slot) (s : State) :
    raise c v (s.setSlot n x) = endedWith (s.slots.set n x) 0 [] c (info32 v) s :=
  raise_of_pending h v (s.setSlot n x)

/-- What a level-1 row leaves waiting for level 2: one slot written, no flag, no sink operation. -/
theorem setStage_setSlot (g : Stage) (n : Nat) (x : Slot) (s : State) :
    setStage g (s.setSlot n x) = passedOn (s.slots.set n x) 0 [] g s := by
  simp only [passedOn, BitVec.ofNat_eq_ofNat, BitVec.or_zero, List.append_nil]
  rfl

/-- One entry of the dedup table is written, and every other stays (rule R171). -/
theorem read_write_singleton (tab : Memory) (a : Nat) (b : Byte) (c : Nat) :
    Memory.read (Memory.write tab a [b]) c = if c = a then some b else Memory.read tab c := by
  rw [Memory.read_write, List.length_singleton]
  by_cases h : c = a
  · subst h
    simp
  · rw [if_neg h, if_neg (by omega)]

section
variable {n : Nat} {s : State}

/-- A row may write its slot and go on with it. -/
theorem Selected.setSlot (h : Selected n s) (x : Slot) : Selected n (s.setSlot n x) ∧ (s.setSlot n x).slot n = x :=
  ⟨⟨h.1, by simpa using h.2⟩, slot_setSlot_same h.2 x⟩

/-! ## The order test, the bounds test, the write -/

theorem chunkAppend_of_order (h : Selected n s) {off : Nat} (p : List Byte) (hoff : off ≠ (s.slot n).receivedLen) :
    chunkAppend off p s
      = endedWith (s.slots.set n { s.slot n with cstate := .idle }) 0x0001 [] .invChunkOrder (info32 off) s := by
  rcases chunkAppend_cases h off p with ⟨-, e⟩ | ⟨hcur, -⟩ | ⟨hcur, -⟩
  · rw [e, raise_invalid_setSlot rfl]
  · exact absurd hcur hoff
  · exact absurd hcur hoff

theorem chunkAppend_of_bounds (h : Selected n s) {off : Nat} {p : List Byte} (hoff : off = (s.slot n).receivedLen)
    (hp : (s.slot n).declaredLen < off + p.length) :
    chunkAppend off p s = endedWith (s.slots.set n { s.slot n with cstate := .idle }) 0x0001 [] .invChunkBounds
      (info32 (off + p.length)) s := by
  rcases chunkAppend_cases h off p with ⟨hne, -⟩ | ⟨-, -, e⟩ | ⟨-, hfit, -⟩
  · exact absurd hoff hne
  · rw [e, raise_invalid_setSlot rfl]
  · exact absurd hp (Nat.not_lt.mpr hfit)

theorem chunkAppend_of_fits (h : Selected n s) {off : Nat} {p : List Byte} (hoff : off = (s.slot n).receivedLen)
    (hp : off + p.length ≤ (s.slot n).declaredLen) :
    chunkAppend off p s = endedWith
      (s.slots.set n { s.slot n with cb := Memory.write (s.slot n).cb off p, receivedLen := off + p.length }) 0 []
      .pending (info32 (off + p.length)) s := by
  rcases chunkAppend_cases h off p with ⟨hne, -⟩ | ⟨-, hlt, -⟩ | ⟨-, -, e⟩
  · exact absurd hoff hne
  · exact absurd hlt (Nat.not_lt.mpr hp)
  · rw [e, raise_pending_setSlot rfl]

/-! ## CHK.NOP -/

theorem exec_chkNop (hd : Hdr) (s : State) : exec (.chkNop hd) s = .next (endedWith s.slots 0 [] .okNoopChunk 0 s) :=
  congrArg Host.Outcome.next (finish_eq_endedWith .okNoopChunk 0 s)

/-- Settles O25: the first line of the choice of a chunked row, and its meaning, which ends at once. -/
theorem noopChunkChangesNothing : Obligations.NoopChunkChangesNothing := by
  unfold Obligations.NoopChunkChangesNothing
  refine ⟨fun x p hidx hlen => ?_, fun s hd => exec_chkNop hd s⟩
  simp [decodeFraming, hidx, hlen]

/-! ## CHK.S -/

/-- What CHK.S does on slot `n` (rule R152): the tests for a restart and for the buffer, then the append to a sequence
opened anew. -/
theorem exec_chkS (h : Selected n s) (hd : Hdr) (x : Nat) (p : List Byte) :
    exec (.chkS hd x p) s = .next
      (if (s.slot n).cstate = .accum ∧ (s.slot n).declaredLen ≠ x then
        raise .invChunkRestart x (s.setSlot n { s.slot n with cstate := .idle })
      else if x > s.cfg.chunkBufBytes then raise .invChunkCapacity x (s.setSlot n { s.slot n with cstate := .idle })
      else chunkAppend 0 p (s.setSlot n { s.slot n with cstate := .accum, declaredLen := x, receivedLen := 0 })) := by
  rw [← cur_of_sel h.1, ← setCur_of_sel h.1, ← setCur_of_sel h.1]
  rfl

/-- A start packet that opens a sequence of its total, or opens the same one again (rule R152). -/
theorem exec_chkS_append (h : Selected n s) (hd : Hdr) {x : Nat} (p : List Byte)
    (hopen : (s.slot n).cstate = .accum → (s.slot n).declaredLen = x) (hcap : x ≤ s.cfg.chunkBufBytes) :
    exec (.chkS hd x p) s = .next
      (chunkAppend 0 p (s.setSlot n { s.slot n with cstate := .accum, declaredLen := x, receivedLen := 0 })) := by
  rw [exec_chkS h, if_neg fun hre => hre.2 (hopen hre.1), if_neg (Nat.not_lt.mpr hcap)]

theorem exec_chkS_fits (h : Selected n s) (hd : Hdr) {x : Nat} {p : List Byte}
    (hopen : (s.slot n).cstate = .accum → (s.slot n).declaredLen = x) (hcap : x ≤ s.cfg.chunkBufBytes)
    (hp : p.length ≤ x) :
    exec (.chkS hd x p) s = .next (endedWith
      (s.slots.set n { s.slot n with
        cstate := .accum, declaredLen := x, receivedLen := p.length, cb := Memory.write (s.slot n).cb 0 p })
      0 [] .pending (info32 p.length) s) := by
  obtain ⟨hsel, hslot⟩ := h.setSlot { s.slot n with cstate := .accum, declaredLen := x, receivedLen := 0 }
  rw [exec_chkS_append h hd p hopen hcap,
    chunkAppend_of_fits hsel (by rw [hslot]) (by rw [hslot, Nat.zero_add]; exact hp), hslot]
  simp only [setSlot_slots, List.set_set, Nat.zero_add]
  rfl

theorem exec_chkS_bounds (h : Selected n s) (hd : Hdr) {x : Nat} {p : List Byte}
    (hopen : (s.slot n).cstate = .accum → (s.slot n).declaredLen = x) (hcap : x ≤ s.cfg.chunkBufBytes)
    (hp : x < p.length) :
    exec (.chkS hd x p) s = .next (endedWith
      (s.slots.set n { s.slot n with cstate := .idle, declaredLen := x, receivedLen := 0 }) 0x0001 []
      .invChunkBounds (info32 p.length) s) := by
  obtain ⟨hsel, hslot⟩ := h.setSlot { s.slot n with cstate := .accum, declaredLen := x, receivedLen := 0 }
  rw [exec_chkS_append h hd p hopen hcap,
    chunkAppend_of_bounds hsel (by rw [hslot]) (by rw [hslot, Nat.zero_add]; exact hp), hslot]
  simp only [setSlot_slots, List.set_set, Nat.zero_add]
  rfl

theorem exec_chkS_restart (h : Selected n s) (hd : Hdr) {x : Nat} (p : List Byte)
    (hopen : (s.slot n).cstate = .accum) (hne : (s.slot n).declaredLen ≠ x) :
    exec (.chkS hd x p) s = .next (endedWith (s.slots.set n { s.slot n with cstate := .idle }) 0x0001 []
      .invChunkRestart (info32 x) s) := by
  rw [exec_chkS h, if_pos ⟨hopen, hne⟩, raise_invalid_setSlot rfl]

theorem exec_chkS_capacity (h : Selected n s) (hd : Hdr) {x : Nat} (p : List Byte)
    (hopen : (s.slot n).cstate = .accum → (s.slot n).declaredLen = x) (hcap : s.cfg.chunkBufBytes < x) :
    exec (.chkS hd x p) s = .next (endedWith (s.slots.set n { s.slot n with cstate := .idle }) 0x0001 []
      .invChunkCapacity (info32 x) s) := by
  rw [exec_chkS h, if_neg fun hre => hre.2 (hopen hre.1), if_pos hcap, raise_invalid_setSlot rfl]

/-- Settles O26, by the tests of CHK.S in their order. -/
theorem startPacketOpensOrRejects : Obligations.StartPacketOpensOrRejects := by
  unfold Obligations.StartPacketOpensOrRejects
  intro n s hd x p h
  refine ⟨fun hopen hcap hp => ⟨_, fun a => ?_, exec_chkS_fits h hd hopen hcap hp⟩,
    fun hopen hne => exec_chkS_restart h hd p hopen hne, fun hopen hcap => exec_chkS_capacity h hd p hopen hcap,
    fun hopen hcap hp => exec_chkS_bounds h hd hopen hcap hp⟩
  simp [Memory.read_write]

/-! ## CHK.D -/

theorem exec_chkD_idle (h : Selected n s) (hd : Hdr) (x : Nat) (p : List Byte) (hidle : (s.slot n).cstate = .idle) :
    exec (.chkD hd x p) s = .next (endedWith s.slots 0x0001 [] .invChunkNoStart (info32 x) s) := by
  have hcur : s.cur.cstate = .idle := cur_of_sel h.1 ▸ hidle
  rw [← raise_of_invalid rfl]
  exact congrArg Host.Outcome.next (if_pos hcur)

theorem exec_chkD_open (h : Selected n s) (hd : Hdr) (x : Nat) (p : List Byte) (hopen : (s.slot n).cstate = .accum) :
    exec (.chkD hd x p) s = .next (chunkAppend x p s) := by
  have hcur : s.cur.cstate ≠ .idle := by simp [cur_of_sel h.1, hopen]
  exact congrArg Host.Outcome.next (if_neg hcur)

theorem exec_chkD_fits (h : Selected n s) (hd : Hdr) {x : Nat} {p : List Byte} (hopen : (s.slot n).cstate = .accum)
    (hx : x = (s.slot n).receivedLen) (hp : x + p.length ≤ (s.slot n).declaredLen) :
    exec (.chkD hd x p) s = .next (endedWith
      (s.slots.set n { s.slot n with cb := Memory.write (s.slot n).cb x p, receivedLen := x + p.length }) 0 []
      .pending (info32 (x + p.length)) s) := by
  rw [exec_chkD_open h hd x p hopen, chunkAppend_of_fits h hx hp]

/-- Settles O27: the packet passes the order test and the bounds test, and is written. -/
theorem continuationPacketAppends : Obligations.ContinuationPacketAppends := by
  unfold Obligations.ContinuationPacketAppends
  intro n s hd x p h hopen hx hp
  exact ⟨_, Memory.read_write _ x p, exec_chkD_fits h hd hopen hx hp⟩

/-! ## CHK.E -/

theorem exec_chkE_idle (h : Selected n s) (hd : Hdr) (x : Nat) (hidle : (s.slot n).cstate = .idle) :
    exec (.chkE hd x) s = .next (endedWith s.slots 0x0001 [] .invChunkNoStart (info32 x) s) := by
  have hcur : s.cur.cstate = .idle := cur_of_sel h.1 ▸ hidle
  rw [← raise_of_invalid rfl]
  exact congrArg Host.Outcome.next (if_pos hcur)

theorem exec_chkE_open (h : Selected n s) (hd : Hdr) {x : Nat} (hopen : (s.slot n).cstate = .accum)
    (hx : x = (s.slot n).declaredLen) : exec (.chkE hd x) s = .next (chunkTerminate hd x s) := by
  have hcur : s.cur.cstate ≠ .idle := by simp [cur_of_sel h.1, hopen]
  have htotal : x = s.cur.declaredLen := cur_of_sel h.1 ▸ hx
  exact congrArg Host.Outcome.next ((if_neg hcur).trans (if_pos htotal))

theorem exec_chkE_early (h : Selected n s) (hd : Hdr) {x : Nat} (hopen : (s.slot n).cstate = .accum)
    (hx : x = (s.slot n).declaredLen) (hearly : (s.slot n).receivedLen ≠ x) :
    exec (.chkE hd x) s = .next (endedWith (s.slots.set n { s.slot n with cstate := .idle }) 0x0001 []
      .invChunkOrder (info32 x) s) := by
  rw [exec_chkE_open h hd hopen hx]
  rcases chunkTerminate_cases h hd x with ⟨-, e⟩ | ⟨hfull, -⟩
  · rw [e, raise_invalid_setSlot rfl]
  · exact absurd (hfull.trans hx.symm) hearly

/-- Settles O28: the two rows while no sequence is open, and the three tests that discard an open one. -/
theorem continuationPacketRejected : Obligations.ContinuationPacketRejected := by
  unfold Obligations.ContinuationPacketRejected
  intro n s hd x p h
  refine ⟨exec_chkD_idle h hd x p, fun hopen hne => ?_, fun hopen hx hp => ?_, exec_chkE_idle h hd x,
    exec_chkE_early h hd⟩
  · rw [exec_chkD_open h hd x p hopen, chunkAppend_of_order h p hne]
  · rw [exec_chkD_open h hd x p hopen, chunkAppend_of_bounds h hx hp]

/-! ## The hand-off -/

/-- The flags of the reassembled message are the terminator's without the two chunk bits (rule R157). -/
theorem getLsbD_clearChunkFlags (c : HdrCfg) (flags : Byte) {i : Nat} (hi : i < 8) :
    (clearChunkFlags c flags).getLsbD i
      = (flags.getLsbD i && decide (i ≠ c.flagChunkStart) && decide (i ≠ c.flagChunk)) := by
  have hbit (k : Nat) : (1#8 <<< k).getLsbD i = decide (i = k) := by
    rw [BitVec.getLsbD_shiftLeft, BitVec.getLsbD_one, Bool.eq_iff_iff]
    simp only [Bool.and_eq_true, Bool.not_eq_true', decide_eq_true_eq, decide_eq_false_iff_not]
    omega
  simp only [clearChunkFlags, BitVec.getLsbD_and, BitVec.getLsbD_not, BitVec.getLsbD_or, hbit, hi, decide_true,
    Bool.true_and, Bool.not_or, Bool.and_assoc, ne_eq, decide_not]

/-- The bytes read from address 0 on are the listed ones where every one is listed (rule R372). -/
theorem getElem?_readBytes {free : Nat → Byte} {m : Memory} {k a : Nat} (ha : a < k) (hm : Memory.read m a ≠ none) :
    (Memory.readBytes free m 0 k)[a]? = Memory.read m a := by
  obtain ⟨b, hb⟩ := Option.ne_none_iff_exists'.mp hm
  simp [Memory.readBytes_eq, ha, hb]

/-- The message that the terminator of slot `n`'s sequence hands to DDP (rule R157). -/
def handedOff (n : Nat) (hd : Hdr) (s : State) : Message where
  cmd := hd.cmd
  flags := clearChunkFlags s.cfg.hdr hd.flags
  seq := hd.seq
  data := Memory.readBytes (Config.chunkBufPowerOn n) (s.slot n).cb 0 (s.slot n).declaredLen

/-- The terminator of a completely written sequence (rule R156). -/
theorem exec_chkE_complete (h : Selected n s) (hd : Hdr) {x : Nat} (hopen : (s.slot n).cstate = .accum)
    (hx : x = (s.slot n).declaredLen) (hfull : (s.slot n).receivedLen = x) :
    exec (.chkE hd x) s = .next (dedup (handedOff n hd s) (s.setSlot n { s.slot n with cstate := .idle })) := by
  rw [exec_chkE_open h hd hopen hx]
  rcases chunkTerminate_cases h hd x with ⟨hearly, -⟩ | ⟨-, e⟩
  · exact absurd (hfull.trans hx) hearly
  · rw [e, handedOff]

theorem exec_chkE_duplicate (h : Selected n s) (hd : Hdr) {x : Nat} (hopen : (s.slot n).cstate = .accum)
    (hx : x = (s.slot n).declaredLen) (hfull : (s.slot n).receivedLen = x)
    (hseq : Memory.read (s.slot n).seqTab hd.cmd.toNat = some hd.seq) :
    exec (.chkE hd x) s = .next (endedWith (s.slots.set n { s.slot n with cstate := .idle }) 0 [] .okDuplicate
      (BitVec.ofNat 32 (hd.cmd.toNat + 256 * hd.seq.toNat)) s) := by
  obtain ⟨hsel, hslot⟩ := h.setSlot { s.slot n with cstate := .idle }
  rw [exec_chkE_complete h hd hopen hx hfull]
  rcases dedup_cases hsel (handedOff n hd s) with ⟨-, e⟩ | ⟨hnew, -⟩
  · rw [e, finish_eq_endedWith, info32_of_lt]
    · rfl
    · have hcmd := hd.cmd.isLt
      have hseqLt := hd.seq.isLt
      simp only [handedOff]
      omega
  · rw [hslot] at hnew
    exact absurd hseq hnew

theorem exec_chkE_new (h : Selected n s) (hd : Hdr) {x : Nat} (hopen : (s.slot n).cstate = .accum)
    (hx : x = (s.slot n).declaredLen) (hfull : (s.slot n).receivedLen = x)
    (hseq : Memory.read (s.slot n).seqTab hd.cmd.toNat ≠ some hd.seq) :
    exec (.chkE hd x) s = .next (passedOn
      (s.slots.set n { s.slot n with
        cstate := .idle, seqTab := Memory.write (s.slot n).seqTab hd.cmd.toNat [hd.seq] })
      0 [] (.message (handedOff n hd s)) s) := by
  obtain ⟨hsel, hslot⟩ := h.setSlot { s.slot n with cstate := .idle }
  rw [exec_chkE_complete h hd hopen hx hfull]
  rcases dedup_cases hsel (handedOff n hd s) with ⟨hdup, -⟩ | ⟨-, e⟩
  · rw [hslot] at hdup
    exact absurd hdup hseq
  · rw [e, hslot, setSlot_setSlot, setStage_setSlot]
    rfl

/-- Settles O29: the hand-off's bytes and flags, and the two outcomes of DDP. -/
theorem terminatorHandsOffTheMessage : Obligations.TerminatorHandsOffTheMessage := by
  unfold Obligations.TerminatorHandsOffTheMessage
  intro n s hd x h hopen hx hfull hwritten
  refine ⟨(handedOff n hd s).flags, (handedOff n hd s).data, ?_, fun a ha => ?_,
    fun i => getLsbD_clearChunkFlags s.cfg.hdr hd.flags, exec_chkE_duplicate h hd hopen hx hfull, fun hseq =>
      ⟨_, read_write_singleton _ _ _, exec_chkE_new h hd hopen hx hfull hseq⟩⟩
  · simp [handedOff, hx]
  · exact getElem?_readBytes (hx ▸ ha) (hwritten a ha)

end

end Sys2Proof.Machine
end

section
/-! What leaves the chunk reassembler alone (rules R158, R159): no operation of DDP, of level 2 or of level 3 writes a
slot's chunk registers or `CB`, so that an open sequence outlives every frame that is not a chunk. -/

namespace Sys2Proof.Machine

/-! ## The chunk registers of a slot and of the table -/

/-- The part of a slot that CHK alone writes: `cstate`, `declared_len`, `received_len` and `CB` (rules R28, R29). -/
def Slot.chunk (x : Slot) : CState × Nat × Nat × Memory := (x.cstate, x.declaredLen, x.receivedLen, x.cb)

/-- The chunk registers of every slot. -/
def State.chunks (s : State) : List (CState × Nat × Nat × Memory) := s.slots.map Slot.chunk

theorem chunks_congr {s t : State} (h : t.slots = s.slots) : t.chunks = s.chunks := congrArg (List.map Slot.chunk) h

theorem slot_chunk (s : State) (j : Nat) : (s.slot j).chunk = s.chunks.getD j Slot.reset.chunk := by
  simp only [State.slot, State.chunks, List.getD_eq_getElem?_getD, List.getElem?_map]
  cases s.slots[j]? <;> rfl

/-- Equal chunk registers of the whole table are equal ones of each slot. -/
theorem slot_chunk_congr {s t : State} (h : t.chunks = s.chunks) (j : Nat) : (t.slot j).chunk = (s.slot j).chunk := by
  rw [slot_chunk, slot_chunk, h]

/-- A slot may be written with the chunk registers it has. -/
theorem setSlot_chunks {s : State} {n : Nat} {x : Slot} (h : x.chunk = (s.slot n).chunk) :
    (s.setSlot n x).chunks = s.chunks := by
  calc (s.setSlot n x).chunks = (s.slots.set n (s.slot n)).map Slot.chunk := by
        rw [State.chunks, setSlot_slots, List.map_set, List.map_set, h]
    _ = s.chunks := by rw [set_slot_self, State.chunks]

theorem setCur_chunks {s : State} {x : Slot} (h : x.chunk = s.cur.chunk) : (s.setCur x).chunks = s.chunks := by
  unfold State.setCur
  split
  · next i hsel => exact setSlot_chunks (h.trans (congrArg Slot.chunk (cur_of_sel hsel)))
  · rfl

/-! ## The shared operations -/

@[simp] theorem emit_chunks (e : Event) (s : State) : (emit e s).chunks = s.chunks := rfl
@[simp] theorem setStage_chunks (g : Stage) (s : State) : (setStage g s).chunks = s.chunks := rfl
@[simp] theorem raiseEv_chunks (e : Ev) (s : State) : (raiseEv e s).chunks = s.chunks := rfl
@[simp] theorem finish_chunks (c : Code) (v : Nat) (s : State) : (finish c v s).chunks = s.chunks := rfl

@[simp] theorem raise_chunks (c : Code) (v : Nat) (s : State) : (raise c v s).chunks = s.chunks :=
  chunks_congr (raise_slots c v s)

@[simp] theorem dedup_chunks (m : Message) (s : State) : (dedup m s).chunks = s.chunks := by
  unfold dedup
  split
  · rfl
  · exact setCur_chunks rfl

/-! ## Level 2 -/

@[simp] theorem construct_chunks (k : Kind) (am : AxisMode) (pm : PickupMode) (s : State) :
    (construct k am pm s).chunks = s.chunks := by
  unfold construct
  dsimp only
  split
  · rfl
  · split <;> exact setCur_chunks rfl

@[simp] theorem factory_chunks (s : State) : (factory s).chunks = s.chunks := by
  unfold factory
  split <;> simp

@[simp] theorem selectMapper_chunks (s : State) : (selectMapper s).chunks = s.chunks := by
  have hbuilt : (if s.cur.mapper.kind = .none then factory s else s).chunks = s.chunks := by split <;> simp
  unfold selectMapper
  dsimp only
  generalize (if s.cur.mapper.kind = .none then factory s else s) = t at hbuilt ⊢
  split
  · rw [raise_chunks, hbuilt]
  · rw [finish_chunks, hbuilt]

@[simp] theorem dscCommit_chunks (g nm : List (List Byte)) (part cap : Bool) (s : State) :
    (dscCommit g nm part cap s).chunks = s.chunks := by
  cases part <;> cases cap <;> exact setCur_chunks rfl

@[simp] theorem lazyFallback_chunks (s : State) : (lazyFallback s).chunks = s.chunks := by
  have hbuilt := construct_chunks .fallback .full .continuous s
  unfold lazyFallback
  dsimp only
  split
  · exact hbuilt
  · split
    · exact hbuilt
    · exact Eq.trans (setCur_chunks (by rfl)) hbuilt

@[simp] theorem forward_chunks (m : Message) (s : State) : (forward m s).chunks = s.chunks := by
  have hmapper : (if s.cur.mapper.kind = .none then lazyFallback s else s).chunks = s.chunks := by split <;> simp
  unfold forward
  dsimp only
  generalize (if s.cur.mapper.kind = .none then lazyFallback s else s) = t at hmapper ⊢
  split
  · rw [raise_chunks, hmapper]
  · split
    · rw [raise_chunks, hmapper]
    · rw [setStage_chunks, hmapper]

/-- The outcome goes on with the chunk registers of `s`. -/
def KeepsChunks (s : State) (o : Host.Outcome State Fault Refusal) : Prop := ∃ t, o = .next t ∧ t.chunks = s.chunks

theorem KeepsChunks.andThen {s : State} {o : Host.Outcome State Fault Refusal}
    {f : State → Host.Outcome State Fault Refusal} (h : KeepsChunks s o) (hf : ∀ t, KeepsChunks t (f t)) :
    KeepsChunks s (andThen o f) := by
  obtain ⟨t, rfl, ht⟩ := h
  obtain ⟨u, hu, hchunks⟩ := hf t
  exact ⟨u, hu, hchunks.trans ht⟩

theorem dispatch_row_keepsChunks {i : Instr} (hl : i.level = .dispatch) (s : State) : KeepsChunks s (exec i s) := by
  cases i with
  | ack m | auth m | serial m => exact ⟨_, rfl, rfl⟩
  | arrival m =>
    refine ⟨_, rfl, ?_⟩
    split
    · rfl
    · split
      · exact raise_chunks _ _ s
      · exact setCur_chunks rfl
  | descriptor m =>
    refine ⟨_, rfl, ?_⟩
    split
    · rfl
    · split
      · exact raise_chunks _ _ s
      · rw [selectMapper_chunks, dscCommit_chunks]
  | keystroke m | input m | ghlInput m | other m => exact ⟨_, rfl, forward_chunks m s⟩
  | _ => nomatch hl

/-! ## Level 3 -/

@[simp] theorem commit_chunks (o : Out) (s : State) : (commit o s).chunks = s.chunks := setCur_chunks rfl

@[simp] theorem decodeDrums_chunks (d : List Byte) (s : State) : (decodeDrums d s).chunks = s.chunks :=
  (commit_chunks _ _).trans (setCur_chunks rfl)

@[simp] theorem runLayout_chunks (k : Kind) (d : List Byte) (s : State) : (runLayout k d s).chunks = s.chunks := by
  cases k with
  | guitar | sixFret | gamepad => exact commit_chunks _ s
  | drums => exact decodeDrums_chunks d s
  | none | fallback | legacyDemux => rfl

@[simp] theorem setChild_chunks (u : Nat) (x : Child) (s : State) : (s.setChild u x).chunks = s.chunks := setCur_chunks rfl

@[simp] theorem disposeChild_chunks (u : Nat) (s : State) : (disposeChild u s).chunks = s.chunks := by
  unfold disposeChild
  split <;> simp

@[simp] theorem connectChild_chunks (u : Nat) (k : Kind) (s : State) : (connectChild u k s).chunks = s.chunks := by
  unfold connectChild
  dsimp only
  split <;> simp

@[simp] theorem commitChild_chunks (u : Nat) (o : Out) (s : State) : (commitChild u o s).chunks = s.chunks :=
  setChild_chunks u _ s

@[simp] theorem decodeChildDrums_chunks (u : Nat) (d : List Byte) (s : State) :
    (decodeChildDrums u d s).chunks = s.chunks :=
  (commitChild_chunks u _ _).trans (setChild_chunks u _ s)

theorem withUser_chunks (m : Message) {s : State} {f : LgyCfg → Nat → State} (hf : ∀ l u, (f l u).chunks = s.chunks) :
    (withUser m s f).chunks = s.chunks := by
  rcases withUser_cases m s f with ⟨-, e⟩ | ⟨l, -, ⟨-, e⟩ | ⟨-, -, e⟩ | ⟨-, -, e⟩⟩ <;> rw [e]
  · rfl
  · rfl
  · rfl
  · exact hf l _

/-- A report that a layout takes or, of another length, ignores (rule R241). -/
theorem ite_ignore_chunks {p : Prop} [Decidable p] {s t : State} (ht : t.chunks = s.chunks) :
    (if p then t else ignoreMessage s).chunks = s.chunks := by
  split
  · exact ht
  · rfl

theorem report_row_keepsChunks {i : Instr} (hl : i.level = .report) (s : State) : KeepsChunks s (exec i s) := by
  cases i with
  | inputGtr m | ghlInputGhl m | inputPad m => exact ⟨_, rfl, ite_ignore_chunks (commit_chunks _ s)⟩
  | inputDrm m => exact ⟨_, rfl, ite_ignore_chunks (decodeDrums_chunks _ s)⟩
  | inputFb m =>
    refine ⟨_, rfl, ?_⟩
    split
    · exact runLayout_chunks _ _ s
    · rfl
  | keystrokeGuide m =>
    refine ⟨_, rfl, ?_⟩
    split
    · rfl
    · split
      · rfl
      · exact setCur_chunks rfl
  | lgyConnect m =>
    refine ⟨_, rfl, withUser_chunks m fun l u => ?_⟩
    split
    · rfl
    · split
      · rfl
      · exact connectChild_chunks u _ s
  | lgyDisconnect m => exact ⟨_, rfl, withUser_chunks m fun l u => disposeChild_chunks u s⟩
  | lgyInput m =>
    refine ⟨_, rfl, withUser_chunks m fun l u => ?_⟩
    split
    · rfl
    · split
      · rfl
      · dsimp only
        split
        · exact commitChild_chunks u _ s
        · split
          · exact decodeChildDrums_chunks u _ s
          · rfl
  | noop m => exact ⟨_, rfl, rfl⟩
  | _ => nomatch hl

/-! ## A frame that is not a chunk -/

theorem runNext_keepsChunks (s : State) : KeepsChunks s (runNext s) := by
  unfold runNext nextInstr
  cases s.work.stage with
  | done => exact ⟨s, rfl, rfl⟩
  | message m => exact dispatch_row_keepsChunks (decodeMessage_level _ _) s
  | report m => exact report_row_keepsChunks (decodeReport_level _ _ _) s

/-- An unchunked frame goes to DDP; CHK is not consulted (rule R137). -/
theorem runRows_msg_keepsChunks (hd : Hdr) (p : List Byte) (s : State) : KeepsChunks s (runRows (.msg hd p) s) :=
  (KeepsChunks.andThen ⟨_, rfl, dedup_chunks _ s⟩ runNext_keepsChunks).andThen runNext_keepsChunks

theorem route_cfg {key : Key} {s t : State} (h : route key s = some t) : t.cfg = s.cfg := by
  rcases route_cases key s with ⟨i, -, -, e⟩ | ⟨i, -, -, -, e⟩ | ⟨-, -, e⟩ <;> rw [e] at h <;> cases h
  · rfl
  · rfl

/-- ROUTE writes no valid slot: it allocates one that is free (rules R131, R46). -/
theorem route_keeps_valid_slot {key : Key} {s t : State} (h : route key s = some t) {j : Nat}
    (hj : (s.slot j).valid = true) : t.slot j = s.slot j := by
  rcases route_cases key s with ⟨i, -, -, e⟩ | ⟨i, -, hf, -, e⟩ | ⟨-, -, e⟩ <;> rw [e] at h <;> cases h
  · rfl
  · have hij : i ≠ j := by
      rintro rfl
      simp [(slot_of_findFree hf).1] at hj
    exact slot_setSlot_other hij _

theorem fetchHeader_of_bad {s : State} {bytes : List Byte} {hd : Option Hdr} {why : Reject}
    (h : parseFrame s.cfg bytes = .bad hd why) :
    fetchHeader bytes s = .ended (raise (rejectCode why).1 (rejectCode why).2 (setHdr hd s)) := by
  simp [fetchHeader, h]

section
variable {key : Key} {bytes : List Byte} {o r : Bool} {rest : List Input} {s t : State}

/-- The step of a frame that finds a slot and is rejected, or is no chunk, leaves the chunk registers as ROUTE does. -/
theorem step_keepsChunks_of_route (hin : s.inputs = .deliver key bytes o r :: rest)
    (hlen : bytes.length ≤ s.cfg.frameMax) (hroute : route key (frameStart key o r rest s) = some t)
    (hplain : ∀ p, parseFrame t.cfg bytes = .ok p → p.idx = none) :
    ∃ u, step s = .next (endStep u) ∧ u.chunks = t.chunks := by
  have hfetch : fetch (.deliver key bytes o r) (stepStart rest s) = fetchHeader bytes t :=
    fetchFrame_of_route_some hlen hroute
  cases hp : parseFrame t.cfg bytes with
  | bad hd why =>
    rw [fetchHeader_of_bad hp] at hfetch
    exact ⟨_, step_of_ended hin hfetch, raise_chunks _ _ _⟩
  | ok p =>
    have hmsg : decodeFraming t.ctx p = .msg p.hdr p.payload := by rw [decodeFraming, hplain p hp]
    rw [fetchHeader_of_ok hp, hmsg] at hfetch
    obtain ⟨u, hu, hchunks⟩ := runRows_msg_keepsChunks p.hdr p.payload
      (if p.trailing then raiseEv .trailing (setHdr (some p.hdr) t) else setHdr (some p.hdr) t)
    refine ⟨u, step_of_run hin hfetch hu, hchunks.trans ?_⟩
    split <;> rfl

/-- The step of a frame that is no chunk leaves the chunk registers of a valid slot. -/
theorem step_keeps_chunk (hin : s.inputs = .deliver key bytes o r :: rest)
    (hplain : ∀ p, parseFrame s.cfg bytes = .ok p → p.idx = none) {j : Nat} (hj : (s.slot j).valid = true) :
    ∃ u, step s = .next (endStep u) ∧ (u.slot j).chunk = (s.slot j).chunk := by
  by_cases hlen : bytes.length ≤ s.cfg.frameMax
  · cases hroute : route key (frameStart key o r rest s) with
    | none =>
      have hfetch : fetch (.deliver key bytes o r) (stepStart rest s)
          = .ended (raise .unsNoSlot 0 (frameStart key o r rest s)) := fetchFrame_of_route_none hlen hroute
      exact ⟨_, step_of_ended hin hfetch, slot_chunk_congr (raise_chunks _ _ _) j⟩
    | some t =>
      have hcfg : t.cfg = s.cfg := Eq.trans (route_cfg hroute) rfl
      obtain ⟨u, hu, hchunks⟩ := step_keepsChunks_of_route hin hlen hroute (hcfg ▸ hplain)
      have hslot : t.slot j = s.slot j := route_keeps_valid_slot hroute hj
      exact ⟨u, hu, hslot ▸ slot_chunk_congr hchunks j⟩
  · exact ⟨_, step_of_oversize hin (Nat.lt_of_not_le hlen), slot_chunk_congr (raise_chunks _ _ _) j⟩

end

/-- Settles O18: such a frame is turned away, rejected, or a message, and none of these writes the chunk registers. -/
theorem openSequenceSurvivesOtherFrames : Obligations.OpenSequenceSurvivesOtherFrames := by
  unfold Obligations.OpenSequenceSurvivesOtherFrames
  intro s t key bytes o r rest j hin hstep hj hplain
  obtain ⟨u, hu, hchunk⟩ := step_keeps_chunk hin hplain hj
  obtain rfl := Host.Outcome.next.inj (hu.symm.trans hstep)
  simpa [Slot.chunk] using hchunk

end Sys2Proof.Machine
end

section
/-! A chunked message reassembles (rules R111, R157, R160): what holds of the session while the packets of one message come
in, kept by every packet's row, and carried from the rows to the steps of the frames that hold them. -/

namespace Sys2Proof.Machine

/-! ## A slot that collects a message -/

/-- Slot `x` is `x₀` with an open sequence for `msg`, whose first `off` bytes are written. -/
structure Slot.Collects (x₀ : Slot) (msg : List Byte) (off : Nat) (x : Slot) : Prop where
  valid : x.valid = x₀.valid
  tag : x.tag = x₀.tag
  seqTab : x.seqTab = x₀.seqTab
  isOpen : x.cstate = .accum
  total : x.declaredLen = msg.length
  cursor : x.receivedLen = off
  inside : off ≤ msg.length
  bytes : ∀ a, a < off → Memory.read x.cb a = msg[a]?

/-- The next part of the message is as long as it may be (rule R155). -/
theorem length_of_drop_eq_append {msg p post : List Byte} {off : Nat} (hoff : off ≤ msg.length)
    (h : msg.drop off = p ++ post) : off + p.length + post.length = msg.length := by
  have hlen := congrArg List.length h
  rw [List.length_drop, List.length_append] at hlen
  omega

/-- A part written at its place completes the bytes below the new cursor. -/
theorem read_write_part {cb : Memory} {msg p post : List Byte} {off : Nat}
    (hcb : ∀ a, a < off → Memory.read cb a = msg[a]?) (h : msg.drop off = p ++ post) (a : Nat)
    (ha : a < off + p.length) : Memory.read (Memory.write cb off p) a = msg[a]? := by
  rw [Memory.read_write]
  by_cases hin : off ≤ a
  · have hlt : a - off < p.length := by omega
    rw [if_pos ⟨hin, ha⟩]
    calc p[a - off]? = (msg.drop off)[a - off]? := by rw [h, List.getElem?_append_left hlt]
      _ = msg[a]? := by rw [List.getElem?_drop, Nat.add_sub_cancel' hin]
  · rw [if_neg fun hand => hin hand.1]
    exact hcb a (Nat.lt_of_not_le hin)

/-- A start packet opens the sequence (rule R152). -/
theorem collects_of_start (x : Slot) {msg first post : List Byte} (hmsg : msg = first ++ post) :
    Slot.Collects x msg first.length { x with
      cstate := .accum, declaredLen := msg.length, receivedLen := first.length, cb := Memory.write x.cb 0 first } where
  valid := rfl
  tag := rfl
  seqTab := rfl
  isOpen := rfl
  total := rfl
  cursor := rfl
  inside := by simp [hmsg]
  bytes := fun a ha => read_write_part (msg := msg) (off := 0) nofun hmsg a (by rwa [Nat.zero_add])

/-- A packet at the cursor moves it behind its payload (rules R154, R155). -/
theorem Slot.Collects.append {x₀ x : Slot} {msg p post : List Byte} {off : Nat} (h : Slot.Collects x₀ msg off x)
    (hpart : msg.drop off = p ++ post) :
    Slot.Collects x₀ msg (off + p.length)
      { x with cb := Memory.write x.cb off p, receivedLen := off + p.length } where
  valid := h.valid
  tag := h.tag
  seqTab := h.seqTab
  isOpen := h.isOpen
  total := h.total
  cursor := rfl
  inside := by
    have hlen := length_of_drop_eq_append h.inside hpart
    omega
  bytes := read_write_part h.bytes hpart

/-- The buffer of a completely written sequence is the message (rule R160). -/
theorem Slot.Collects.readBytes {x₀ x : Slot} {msg : List Byte} (h : Slot.Collects x₀ msg msg.length x)
    (free : Nat → Byte) : Memory.readBytes free x.cb 0 x.declaredLen = msg := by
  refine List.ext_getElem? fun a => ?_
  rw [h.total]
  by_cases ha : a < msg.length
  · have hread := h.bytes a ha
    rw [getElem?_readBytes ha (by rw [hread]; simpa using ha), hread]
  · have hge : msg.length ≤ a := Nat.le_of_not_lt ha
    rw [List.getElem?_eq_none hge, List.getElem?_eq_none (by simpa using hge)]

/-! ## A block that collects a message -/

/-- `findKey` looks at the valid bits and the tags alone (rule R22). -/
theorem findKey_set {key : Key} {s : State} {n : Nat} {x : Slot} (hv : x.valid = (s.slot n).valid)
    (ht : x.tag = (s.slot n).tag) : findKey key (s.slots.set n x) = findKey key s.slots := by
  have hmap (slots : List Slot) : findKey key slots
      = (slots.map fun y => (y.valid, y.tag)).findIdx? fun q => q.1 && q.2 == key := by
    rw [List.findIdx?_map]
    rfl
  have hset : (s.slots.set n x).map (fun y => (y.valid, y.tag)) = s.slots.map fun y => (y.valid, y.tag) := by
    rw [List.map_set, hv, ht, ← List.map_set (f := fun y : Slot => (y.valid, y.tag)), set_slot_self]
  rw [hmap, hset, ← hmap]

/-- Slot `n` collects `msg`, with the first `off` bytes written; else the table is the one of `s₀`. -/
structure Collecting (n : Nat) (s₀ : State) (msg : List Byte) (off : Nat) (s : State) : Prop where
  cfg : s.cfg = s₀.cfg
  inTable : n < s₀.slots.length
  fits : msg.length ≤ s₀.cfg.chunkBufBytes
  table : ∃ x, s.slots = s₀.slots.set n x ∧ Slot.Collects (s₀.slot n) msg off x

/-- A packet's row has ended the step, and the message is collected up to `off`. -/
def PacketTaken (n : Nat) (s₀ : State) (msg : List Byte) (off : Nat) (s : State)
    (out : Host.Outcome State Fault Refusal) : Prop :=
  ∃ t, out = .next t ∧ Collecting n s₀ msg off t ∧ t.work.sel = s.work.sel ∧ t.work.stage = .done
    ∧ t.inputs = s.inputs

/-- A row has handed the message `m` of slot `n` to level 2 and left the slot Idle (rules R156, R157). -/
def HandedOn (n : Nat) (s₀ : State) (m : Message) (v : State) : Prop :=
  OnSlot n v ∧ (v.slot n).cstate = .idle ∧ (∀ j, j ≠ n → v.slot j = s₀.slot j) ∧ v.work.stage = .message m

namespace Collecting

variable {n : Nat} {s₀ s t : State} {msg p post : List Byte} {off : Nat}

theorem congr (h : Collecting n s₀ msg off s) (hc : t.cfg = s.cfg) (hs : t.slots = s.slots) :
    Collecting n s₀ msg off t :=
  { h with cfg := hc.trans h.cfg, table := hs ▸ h.table }

theorem congr_base (h : Collecting n s₀ msg off s) (hc : s₀.cfg = t.cfg) (hs : s₀.slots = t.slots) :
    Collecting n t msg off s where
  cfg := h.cfg.trans hc
  inTable := hs ▸ h.inTable
  fits := hc ▸ h.fits
  table := by
    rw [← slot_congr hs, ← hs]
    exact h.table

theorem onSlot (h : Collecting n s₀ msg off s) (hsel : s.work.sel = some n) : Selected n s := by
  obtain ⟨x, hs, -⟩ := h.table
  exact ⟨hsel, by simpa [hs] using h.inTable⟩

theorem slot (h : Collecting n s₀ msg off s) : Slot.Collects (s₀.slot n) msg off (s.slot n) := by
  obtain ⟨x, hs, hx⟩ := h.table
  rwa [slot_congr (t := s) (s := s₀.setSlot n x) hs, slot_setSlot_same h.inTable]

/-- Every other slot is as it was (rule R71). -/
theorem others (h : Collecting n s₀ msg off s) (j : Nat) (hj : j ≠ n) : s.slot j = s₀.slot j := by
  obtain ⟨x, hs, -⟩ := h.table
  rw [slot_congr (t := s) (s := s₀.setSlot n x) hs, slot_setSlot_other hj.symm]

theorem findKey (h : Collecting n s₀ msg off s) (key : Key) : findKey key s.slots = findKey key s₀.slots := by
  obtain ⟨x, hs, hx⟩ := h.table
  rw [hs, findKey_set hx.valid hx.tag]

/-- A row that ends the step with slot `n` written. -/
theorem endedWith (h : Collecting n s₀ msg off s) {x : Slot} {off' : Nat} (hx : Slot.Collects (s₀.slot n) msg off' x)
    (raised : BitVec 16) (ev : List Event) (c : Code) (info : BitVec 32) :
    PacketTaken n s₀ msg off' s (.next (endedWith (s.slots.set n x) raised ev c info s)) := by
  obtain ⟨y, hs, -⟩ := h.table
  exact ⟨_, rfl, { h with table := ⟨x, by simp [Machine.endedWith, hs], hx⟩ }, rfl, rfl, rfl⟩

/-! ## The rows -/

/-- CHK.D at the cursor. -/
theorem packet (h : Collecting n s₀ msg off s) (hsel : s.work.sel = some n) (hpart : msg.drop off = p ++ post)
    (hd : Hdr) : PacketTaken n s₀ msg (off + p.length) s (exec (.chkD hd off p) s) := by
  have hslot := h.slot
  have hlen := length_of_drop_eq_append hslot.inside hpart
  rw [exec_chkD_fits (h.onSlot hsel) hd hslot.isOpen hslot.cursor.symm (by rw [hslot.total]; omega)]
  exact h.endedWith (hslot.append hpart) _ _ _ _

/-- CHK.NOP, which is what a packet without payload at offset 0 is (rule R151). -/
theorem nop (h : Collecting n s₀ msg off s) (hd : Hdr) : PacketTaken n s₀ msg off s (exec (.chkNop hd) s) :=
  ⟨_, exec_chkNop hd s, h.congr rfl rfl, rfl, rfl, rfl⟩

/-- The terminator of the whole message, which DDP does not know. -/
theorem terminator (h : Collecting n s₀ msg msg.length s) (hsel : s.work.sel = some n) {hd : Hdr}
    (hseq : Memory.read (s₀.slot n).seqTab hd.cmd.toNat ≠ some hd.seq) :
    ∃ v, exec (.chkE hd msg.length) s = .next v
      ∧ HandedOn n s₀ ⟨hd.cmd, clearChunkFlags s₀.cfg.hdr hd.flags, hd.seq, msg⟩ v := by
  have hslot := h.slot
  have hon := h.onSlot hsel
  have hmsg : handedOff n hd s = ⟨hd.cmd, clearChunkFlags s₀.cfg.hdr hd.flags, hd.seq, msg⟩ := by
    rw [handedOff, hslot.readBytes, h.cfg]
  refine ⟨_, exec_chkE_new hon hd hslot.isOpen hslot.total.symm hslot.cursor (hslot.seqTab ▸ hseq), ?_⟩
  rw [hmsg]
  refine ⟨⟨hsel, by simpa [passedOn] using hon.2⟩, ?_, fun j hj => ?_, rfl⟩
  · exact congrArg Slot.cstate (slot_setSlot_same hon.2 _)
  · exact (slot_setSlot_other hj.symm _).trans (h.others j hj)

end Collecting

/-- CHK.S on an idle slot. -/
theorem start_packetTaken {n : Nat} {s : State} {msg first post : List Byte} (h : Selected n s)
    (hidle : (s.slot n).cstate = .idle) (hmsg : msg = first ++ post) (hcap : msg.length ≤ s.cfg.chunkBufBytes)
    (hd : Hdr) : PacketTaken n s msg first.length s (exec (.chkS hd msg.length first) s) := by
  have hfirst : first.length ≤ msg.length := by simp [hmsg]
  rw [exec_chkS_fits h hd (by simp [hidle]) hcap hfirst]
  exact ⟨_, rfl, ⟨rfl, h.2, hcap, _, rfl, collects_of_start _ hmsg⟩, rfl, rfl, rfl⟩

/-- Behind one part of the message the next ones follow. -/
theorem drop_next {msg p post : List Byte} {off : Nat} (h : msg.drop off = p ++ post) :
    msg.drop (off + p.length) = post := by
  rw [← List.drop_drop, h, List.drop_left]

/-- The packets' rows and the terminator's, from any cursor on. -/
theorem execAll_chunkRows {n : Nat} {s₀ : State} {msg : List Byte} (hs : Nat → Hdr) {term : Hdr}
    (hseq : Memory.read (s₀.slot n).seqTab term.cmd.toNat ≠ some term.seq) (parts : List (List Byte)) {s : State}
    {i off : Nat} (h : Collecting n s₀ msg off s) (hsel : s.work.sel = some n) (hparts : msg.drop off = parts.flatten)
    (hterm : term = hs (i + parts.length)) :
    ∃ v, execAll (chunkRows hs msg.length i off parts) s = .next v
      ∧ HandedOn n s₀ ⟨term.cmd, clearChunkFlags s₀.cfg.hdr term.flags, term.seq, msg⟩ v := by
  induction parts generalizing s i off with
  | nil =>
    obtain rfl : off = msg.length := Nat.le_antisymm h.slot.inside (List.drop_eq_nil_iff.mp hparts)
    obtain rfl : term = hs i := hterm
    obtain ⟨v, hv, hon⟩ := h.terminator hsel hseq
    exact ⟨v, by simp [chunkRows, execAll, andThen, hv], hon⟩
  | cons p rest ih =>
    rw [List.flatten_cons] at hparts
    obtain ⟨t, ht, hcoll, hsel', -, -⟩ := h.packet hsel hparts (hs i)
    have hterm' : term = hs (i + 1 + rest.length) := hterm.trans (congrArg hs (by rw [List.length_cons]; omega))
    obtain ⟨v, hv, hon⟩ := ih hcoll (hsel'.trans hsel) (drop_next hparts) hterm'
    exact ⟨v, by rw [chunkRows, execAll, ht]; exact hv, hon⟩

/-! ## The frames -/

/-- The state in which the level-1 row of a frame of session `n` runs, with the header `hd`. -/
def rowStart (key : Key) (o r : Bool) (rest : List Input) (n : Nat) (hd : Hdr) (s : State) : State :=
  setHdr (some hd) (select n (frameStart key o r rest s))

section
variable {key : Key} {o r : Bool} {rest : List Input} {n : Nat} {s : State} {hd : Hdr}

theorem rowStart_ctx : (rowStart key o r rest n hd s).ctx =
    { cfg := s.cfg, openTotal := if (s.slot n).cstate = .accum then some (s.slot n).declaredLen else none,
      kind := (s.slot n).mapper.kind } := rfl

/-- A frame of a session that parses, with no byte behind its payload, runs the row of its parts (rules R96, R130). -/
theorem step_of_parsed {bytes : List Byte} {p : Parsed} (hkey : findKey key s.slots = some n)
    (hin : s.inputs = .deliver key bytes o r :: rest) (hlen : bytes.length ≤ s.cfg.frameMax)
    (hparse : parseFrame s.cfg bytes = .ok p) (htrail : p.trailing = false) :
    step s = andThen
      (runRows (decodeFraming (rowStart key o r rest n p.hdr s).ctx p) (rowStart key o r rest n p.hdr s))
      (fun u => .next (endStep u)) := by
  have hroute : route key (frameStart key o r rest s) = some (select n (frameStart key o r rest s)) :=
    route_of_findKey hkey
  have hheader : fetchHeader bytes (select n (frameStart key o r rest s))
      = .run (decodeFraming (rowStart key o r rest n p.hdr s).ctx p) (rowStart key o r rest n p.hdr s) := by
    rw [fetchHeader_of_ok (s := select n (frameStart key o r rest s)) hparse, htrail]
    rfl
  have hfetch : fetch (.deliver key bytes o r) (stepStart rest s)
      = fetchHeader bytes (select n (frameStart key o r rest s)) := fetchFrame_of_route_some hlen hroute
  exact step_of_fetch hin (hfetch.trans hheader)

/-- A chunked frame of a session runs the row that it encodes (rules R110, R130). -/
theorem step_of_chunk_frame {i : Instr} {x : Nat} {p : List Byte} (hwf : s.cfg.wf = true)
    (hkey : findKey key s.slots = some n) (hin : s.inputs = wireInput key o r (encodeHC s.cfg hd x p) :: rest)
    (henc : encode s.cfg i = encodeHC s.cfg hd x p) (hl : i.level = .framing)
    (hi : i.wf (rowStart key o r rest n hd s).ctx = true) (hch : s.cfg.hdr.chunked hd.flags = true)
    (hx : s.cfg.lebFits x = true) (hp : s.cfg.lebFits p.length = true)
    (hmax : 3 + 2 * s.cfg.varintMaxBytes + p.length ≤ s.cfg.frameMax) :
    step s = andThen (runRows i (rowStart key o r rest n hd s)) (fun u => .next (endStep u)) := by
  have hpos := varintMaxBytes_pos hwf
  have hlen : (encodePrefix s.cfg hd ++ leb p.length ++ leb x ++ p).length ≤ s.cfg.frameMax := by
    have hlebLen := leb_length_le hpos hp
    have hlebIdx := leb_length_le hpos hx
    simp only [List.length_append, encodePrefix_length]
    omega
  have hparse := parseFrame_encodeHC hwf hch hx hp
  have hdec : decode (rowStart key o r rest n hd s).ctx .framing (encode s.cfg i) = .ok i :=
    decode_encode_framing hwf hl hi
  rw [henc] at hdec
  obtain ⟨q, hq, hrow⟩ := decode_framing_ok hdec
  obtain rfl := ParseRes.ok.inj (hparse.symm.trans hq)
  rw [hrow]
  exact step_of_parsed hkey hin hlen hparse rfl

/-- The step of a packet's frame: the packet's row alone. -/
theorem step_of_packetTaken {s₀ : State} {msg : List Byte} {off : Nat} {i : Instr}
    (hstep : step s = andThen (runRows i (rowStart key o r rest n hd s)) (fun u => .next (endStep u)))
    (h : PacketTaken n s₀ msg off (rowStart key o r rest n hd s) (exec i (rowStart key o r rest n hd s))) :
    ∃ t, step s = .next t ∧ Collecting n s₀ msg off t ∧ t.inputs = rest := by
  obtain ⟨t, ht, hcoll, -, hdone, hin⟩ := h
  refine ⟨endStep t, ?_, hcoll.congr rfl rfl, hin⟩
  rw [hstep, runRows, ht]
  simp [andThen, runNext_of_done hdone]

end

section
variable {key : Key} {o r : Bool} {more : List Input} {n : Nat} {s₀ s : State} {hd : Hdr} {msg p post : List Byte}
  {off : Nat}

theorem lebFits_of_le {c : Cfg} (hwf : c.wf = true) {v : Nat} (hv : v ≤ c.chunkBufBytes) : c.lebFits v = true :=
  decide_eq_true (hv.trans_lt (chunkBufBytes_lt hwf))

theorem chunked_of_chunkStart {c : HdrCfg} {flags : Byte} (h : c.chunkStart flags = true) : c.chunked flags = true := by
  rw [HdrCfg.chunked, ← HdrCfg.chunkStart, h, Bool.true_or]

/-- The step of the start packet's frame. -/
theorem step_start (hwf : s.cfg.wf = true) (hkey : findKey key s.slots = some n)
    (hin : s.inputs = wireInput key o r (encode s.cfg (.chkS hd msg.length p)) :: more)
    (hidle : (s.slot n).cstate = .idle) (hmsg : msg = p ++ post) (hne : msg ≠ [])
    (hcap : msg.length ≤ s.cfg.chunkBufBytes) (hflags : s.cfg.hdr.chunkStart hd.flags = true)
    (hmax : 3 + 2 * s.cfg.varintMaxBytes + p.length ≤ s.cfg.frameMax) :
    ∃ t, step s = .next t ∧ Collecting n s msg p.length t ∧ t.inputs = more := by
  have htotal := lebFits_of_le hwf hcap
  have hp : s.cfg.lebFits p.length = true := lebFits_of_le hwf (le_trans (by simp [hmsg]) hcap)
  have hi : (Instr.chkS hd msg.length p).wf (rowStart key o r more n hd s).ctx = true := by
    simp [Instr.wf, rowStart_ctx, hflags, htotal, hp, hne]
  have hsel : Selected n (rowStart key o r more n hd s) := ⟨rfl, lt_of_findKey hkey⟩
  have hrow := start_packetTaken hsel hidle hmsg hcap hd
  obtain ⟨t, ht, hcoll, hin'⟩ := step_of_packetTaken
    (step_of_chunk_frame hwf hkey hin rfl rfl hi (chunked_of_chunkStart hflags) htotal hp hmax) hrow
  exact ⟨t, ht, hcoll.congr_base rfl rfl, hin'⟩

/-- The step of a continuation packet's frame. One without payload at offset 0 is `CHK.NOP`; no other one is taken for the
terminator, as bytes of the message are still to come. -/
theorem Collecting.step_packet (h : Collecting n s₀ msg off s) (hwf : s₀.cfg.wf = true)
    (hkey : Machine.findKey key s₀.slots = some n)
    (hin : s.inputs = wireInput key o r (encode s₀.cfg (.chkD hd off p)) :: more)
    (hpart : msg.drop off = p ++ post) (hne : p ++ post ≠ []) (hch : s₀.cfg.hdr.chunked hd.flags = true)
    (hstart : s₀.cfg.hdr.chunkStart hd.flags = false)
    (hmax : 3 + 2 * s₀.cfg.varintMaxBytes + p.length ≤ s₀.cfg.frameMax) :
    ∃ t, step s = .next t ∧ Collecting n s₀ msg (off + p.length) t ∧ t.inputs = more := by
  have hslot := h.slot
  have hlen := length_of_drop_eq_append hslot.inside hpart
  have hfits := h.fits
  have hoff : s.cfg.lebFits off = true := lebFits_of_le (h.cfg ▸ hwf) (h.cfg ▸ hslot.inside.trans hfits)
  have hp : s.cfg.lebFits p.length = true := lebFits_of_le (h.cfg ▸ hwf) (by rw [h.cfg]; omega)
  have hlt : off < msg.length := by
    have hpos := List.length_pos_iff.mpr hne
    rw [List.length_append] at hpos
    omega
  have hrow : Collecting n s₀ msg off (rowStart key o r more n hd s) := h.congr rfl rfl
  rw [← h.cfg] at hwf hin hch hstart hmax
  rw [← h.findKey] at hkey
  by_cases hnop : off = 0 ∧ p = []
  · obtain ⟨rfl, rfl⟩ := hnop
    have hi : (Instr.chkNop hd).wf (rowStart key o r more n hd s).ctx = true := hch
    exact step_of_packetTaken (step_of_chunk_frame hwf hkey hin rfl rfl hi hch hoff hp hmax) (hrow.nop hd)
  · have hi : (Instr.chkD hd off p).wf (rowStart key o r more n hd s).ctx = true := by
      simp [Instr.wf, rowStart_ctx, hch, hstart, hoff, hp, hslot.isOpen, hslot.total, hlt.ne', not_and_or.mp hnop]
    exact step_of_packetTaken (step_of_chunk_frame hwf hkey hin rfl rfl hi hch hoff hp hmax)
      (hrow.packet rfl hpart hd)

/-- The step of the terminator's frame: its row, and the rows of the message that it hands on. -/
theorem Collecting.step_terminator (h : Collecting n s₀ msg msg.length s) (hwf : s₀.cfg.wf = true)
    (hkey : Machine.findKey key s₀.slots = some n)
    (hin : s.inputs = wireInput key o r (encode s₀.cfg (.chkE hd msg.length)) :: more) (hne : msg ≠ [])
    (hch : s₀.cfg.hdr.chunked hd.flags = true) (hstart : s₀.cfg.hdr.chunkStart hd.flags = false)
    (hseq : Memory.read (s₀.slot n).seqTab hd.cmd.toNat ≠ some hd.seq) :
    ∃ v, step s = andThen (andThen (andThen (.next v) runNext) runNext) (fun u => .next (endStep u))
      ∧ HandedOn n s₀ ⟨hd.cmd, clearChunkFlags s₀.cfg.hdr hd.flags, hd.seq, msg⟩ v := by
  have hslot := h.slot
  have htotal : s.cfg.lebFits msg.length = true := lebFits_of_le (h.cfg ▸ hwf) (h.cfg ▸ h.fits)
  have hzero : s.cfg.lebFits 0 = true := lebFits_of_le (h.cfg ▸ hwf) (Nat.zero_le _)
  have hrow : Collecting n s₀ msg msg.length (rowStart key o r more n hd s) := h.congr rfl rfl
  obtain ⟨v, hv, hon⟩ := hrow.terminator rfl hseq
  have hmax : 3 + 2 * s₀.cfg.varintMaxBytes ≤ s₀.cfg.frameMax := by
    simp only [Cfg.wf, Bool.and_eq_true, decide_eq_true_eq] at hwf
    tauto
  rw [← h.cfg] at hwf hin hch hstart hmax
  rw [← h.findKey] at hkey
  have hi : (Instr.chkE hd msg.length).wf (rowStart key o r more n hd s).ctx = true := by
    simp [Instr.wf, rowStart_ctx, hch, hstart, htotal, hne, hslot.isOpen, hslot.total]
  refine ⟨v, ?_, hon⟩
  rw [step_of_chunk_frame (p := []) hwf hkey hin rfl rfl hi hch htotal hzero hmax, runRows, hv]

end

/-- Parts whose last one is not empty leave bytes to come. -/
theorem flatten_ne_nil_of_getLast? {parts : List (List Byte)} (hne : parts ≠ [])
    (hlast : ∀ p, parts.getLast? = some p → p ≠ []) : parts.flatten ≠ [] := by
  intro hnil
  obtain ⟨p, hp⟩ := Option.ne_none_iff_exists'.mp (mt List.getLast?_eq_none_iff.mp hne)
  exact hlast p hp (List.flatten_eq_nil_iff.mp hnil p (List.mem_of_getLast? hp))

theorem getLast?_of_tail {p q : List Byte} {rest : List (List Byte)} (h : rest.getLast? = some q) :
    (p :: rest).getLast? = some q := by
  rw [List.getLast?_cons, h, Option.getD_some]

/-- The steps of the continuation packets' frames, from any cursor on, leave the terminator's frame waiting. -/
theorem runSteps_chunkRows {key : Key} {o r : Bool} {more : List Input} {n : Nat} {s₀ : State} {msg : List Byte}
    (hwf : s₀.cfg.wf = true) (hkey : findKey key s₀.slots = some n) (hs : Nat → Hdr) (parts : List (List Byte))
    {s : State} {i off : Nat} (h : Collecting n s₀ msg off s) (hparts : msg.drop off = parts.flatten)
    (hlast : ∀ p, parts.getLast? = some p → p ≠ [])
    (hmax : ∀ p ∈ parts, 3 + 2 * s₀.cfg.varintMaxBytes + p.length ≤ s₀.cfg.frameMax)
    (hflags : ∀ k, i ≤ k → k < i + parts.length →
      s₀.cfg.hdr.chunked (hs k).flags = true ∧ s₀.cfg.hdr.chunkStart (hs k).flags = false)
    (hin : s.inputs
      = (chunkRows hs msg.length i off parts).map (fun i => wireInput key o r (encode s₀.cfg i)) ++ more) :
    ∃ t, runSteps parts.length s = .next t ∧ Collecting n s₀ msg msg.length t
      ∧ t.inputs = wireInput key o r (encode s₀.cfg (.chkE (hs (i + parts.length)) msg.length)) :: more := by
  induction parts generalizing s i off with
  | nil =>
    obtain rfl : off = msg.length := Nat.le_antisymm h.slot.inside (List.drop_eq_nil_iff.mp hparts)
    exact ⟨s, rfl, h, hin⟩
  | cons p rest ih =>
    have hne : p ++ rest.flatten ≠ [] := flatten_ne_nil_of_getLast? (List.cons_ne_nil p rest) hlast
    rw [List.flatten_cons] at hparts
    rw [List.length_cons] at hflags
    obtain ⟨hch, hstart⟩ := hflags i le_rfl (by omega)
    obtain ⟨t, ht, hcoll, hin'⟩ := h.step_packet hwf hkey hin hparts hne hch hstart (hmax p (by simp))
    obtain ⟨u, hu, hcoll', hin''⟩ := ih hcoll (drop_next hparts) (fun q hq => hlast q (getLast?_of_tail hq))
      (fun q hq => hmax q (List.mem_cons_of_mem p hq)) (fun k hik hk => hflags k (by omega) (by omega)) hin'
    refine ⟨u, ?_, hcoll', ?_⟩
    · rw [List.length_cons, runSteps, ht]
      exact hu
    · rw [hin'', List.length_cons, Nat.add_assoc, Nat.add_comm 1]

/-- A flags byte is fixed by its eight bits (rule R157). -/
theorem eq_clearChunkFlags {c : HdrCfg} {flags fl : Byte}
    (h : ∀ i, i < 8 → fl.getLsbD i = (flags.getLsbD i && decide (i ≠ c.flagChunkStart) && decide (i ≠ c.flagChunk))) :
    fl = clearChunkFlags c flags :=
  BitVec.eq_of_getLsbD_eq fun i hi => (h i hi).trans (getLsbD_clearChunkFlags c flags hi).symm

/-- Settles O30: the start packet opens the collection, each packet carries it on, and the terminator hands on what was
collected; each frame's step is its packet's row. -/
theorem chunkedMessageReassembles : Obligations.ChunkedMessageReassembles := by
  unfold Obligations.ChunkedMessageReassembles
  intro n s hs term first rest msg hidle hmsg hterm hlast hcap hseq fl hfl
  obtain rfl := eq_clearChunkFlags hfl
  have hrest : msg.drop first.length = rest.flatten := by rw [hmsg, List.drop_left]
  have hterm' : term = hs (1 + rest.length) := by rw [hterm, Nat.add_comm]
  refine ⟨fun hon => ?_, fun key o r more hwf hkey hmax hstart hflags hin => ?_⟩
  · obtain ⟨t, ht, hcoll, hsel, -, -⟩ := start_packetTaken hon hidle hmsg hcap (hs 0)
    obtain ⟨v, hv, -, hidle', hothers, hstage⟩ :=
      execAll_chunkRows hs hseq rest hcoll (hsel.trans hon.1) hrest hterm'
    refine ⟨v, ?_, hidle', hothers, hstage⟩
    rw [chunkedRows, ← hmsg, execAll, ht]
    exact hv
  · have hne : msg ≠ [] := hmsg ▸ flatten_ne_nil_of_getLast? (List.cons_ne_nil first rest) hlast
    rw [chunkedRows, ← hmsg, List.map_cons, List.cons_append] at hin
    obtain ⟨t, ht, hcoll, hin'⟩ := step_start hwf hkey hin hidle hmsg hne hcap hstart (hmax first (by simp))
    obtain ⟨u, hu, hcoll', hin''⟩ := runSteps_chunkRows hwf hkey hs rest hcoll hrest
      (fun q hq => hlast q (getLast?_of_tail hq)) (fun q hq => hmax q (List.mem_cons_of_mem first hq))
      (fun k hk hk' => hflags k hk (by omega)) hin'
    rw [← hterm'] at hin''
    obtain ⟨hch, hnostart⟩ := hflags _ (Nat.succ_pos _) le_rfl
    rw [← hterm] at hch hnostart
    obtain ⟨v, hv, hon, hidle', hothers, hstage⟩ :=
      hcoll'.step_terminator hwf hkey hin'' hne hch hnostart hseq
    refine ⟨u, v, ?_, hin'', hcoll'.others, hv, hon, hidle', hothers, hstage⟩
    rw [runSteps, ht]
    exact hu

end Sys2Proof.Machine
end

section
/-! The row MSG (rules R137, R171): an unchunked frame goes to DDP as it is. -/

namespace Sys2Proof.Machine

section
variable {n : Nat} {s : State}

theorem exec_msg_duplicate (h : Selected n s) (hd : Hdr) (p : List Byte)
    (hseq : Memory.read (s.slot n).seqTab hd.cmd.toNat = some hd.seq) :
    exec (.msg hd p) s = .next (endedWith s.slots 0 [] .okDuplicate
      (BitVec.ofNat 32 (hd.cmd.toNat + 256 * hd.seq.toNat)) s) := by
  have hinfo : hd.cmd.toNat + 256 * hd.seq.toNat < 2 ^ 32 := by
    have hcmd := hd.cmd.isLt
    have hseqLt := hd.seq.isLt
    omega
  rcases dedup_cases h (plainMessage hd p) with ⟨-, e⟩ | ⟨hnew, -⟩
  · rw [← info32_of_lt hinfo, ← finish_eq_endedWith]
    exact congrArg Host.Outcome.next e
  · exact absurd hseq hnew

theorem exec_msg_new (h : Selected n s) (hd : Hdr) (p : List Byte)
    (hseq : Memory.read (s.slot n).seqTab hd.cmd.toNat ≠ some hd.seq) :
    exec (.msg hd p) s = .next (passedOn
      (s.slots.set n { s.slot n with seqTab := Memory.write (s.slot n).seqTab hd.cmd.toNat [hd.seq] })
      0 [] (.message (plainMessage hd p)) s) := by
  rcases dedup_cases h (plainMessage hd p) with ⟨hdup, -⟩ | ⟨-, e⟩
  · exact absurd hdup hseq
  · rw [← setStage_setSlot]
    exact congrArg Host.Outcome.next e

end

/-- Settles O23: the two outcomes of DDP, of which the second writes one entry of the slot's table. -/
theorem messagePassesOrIsDuplicate : Obligations.MessagePassesOrIsDuplicate := by
  unfold Obligations.MessagePassesOrIsDuplicate
  intro n s hd p h
  exact ⟨exec_msg_duplicate h hd p, fun hseq => ⟨_, read_write_singleton _ _ _, exec_msg_new h hd p hseq⟩⟩

end Sys2Proof.Machine
end

section
/-! What the rows of levels 2 and 3 can do to a state at all: they emit operations, raise events, write the selected slot
outside the part that framing keeps there, and end the step or hand a message on. Whatever these writes keep, the rows
keep. -/

namespace Sys2Proof.Machine

/-- The part of a slot that ROUTE, CHK and DDP write and no later row does: the session, the open sequence, the dedup table
(rules R22, R28, R29, R30). -/
def Slot.framing (x : Slot) : (Bool × Key) × (CState × Nat × Nat × Memory) × Memory :=
  ((x.valid, x.tag), x.chunk, x.seqTab)

/-- The predicate outlives every write of which the rows of levels 2 and 3 are made. -/
structure RowStable (I : State → Prop) : Prop where
  emit : ∀ (e : Event) {s : State}, I s → I (emit e s)
  setStage : ∀ (g : Stage) {s : State}, I s → I (setStage g s)
  raiseEv : ∀ (e : Ev) {s : State}, I s → I (raiseEv e s)
  finish : ∀ (c : Code) (v : Nat) {s : State}, I s → I (finish c v s)
  setCur : ∀ {x : Slot} {s : State}, x.framing = s.cur.framing → I s → I (s.setCur x)

/-- The outcome goes on in a state of which the predicate holds. -/
def GoesOn (I : State → Prop) (o : Host.Outcome State Fault Refusal) : Prop := ∃ t, o = .next t ∧ I t

theorem GoesOn.next {I : State → Prop} {t : State} (h : I t) : GoesOn I (.next t) := ⟨t, rfl, h⟩

theorem GoesOn.andThen {I : State → Prop} {o : Host.Outcome State Fault Refusal}
    {f : State → Host.Outcome State Fault Refusal} (h : GoesOn I o) (hf : ∀ t, I t → GoesOn I (f t)) :
    GoesOn I (andThen o f) := by
  obtain ⟨t, rfl, ht⟩ := h
  exact hf t ht

namespace RowStable

variable {I : State → Prop} {s t : State}

theorem ignoreMessage (hI : RowStable I) (h : I s) : I (ignoreMessage s) := hI.finish _ _ h

theorem raise (hI : RowStable I) (c : Code) (v : Nat) (h : I s) : I (raise c v s) := by
  have hclass : I (raiseClass c.cls s) := by
    cases c.cls with
    | invalid | unsupported => exact hI.raiseEv _ h
    | ok | pending | disconnected => exact h
  exact hI.finish c v hclass

/-! ## Level 2 -/

theorem construct (hI : RowStable I) (k : Kind) (am : AxisMode) (pm : PickupMode) (h : I s) :
    I (construct k am pm s) := by
  unfold Machine.construct
  dsimp only
  split
  · exact hI.raiseEv _ h
  · split
    · exact hI.emit _ (hI.emit _ (hI.setCur rfl h))
    · exact hI.emit _ (hI.setCur rfl h)

theorem factory (hI : RowStable I) (h : I s) : I (factory s) := by
  rcases factory_cases s with ⟨e, -, eq⟩ | ⟨-, eq⟩ <;> rw [eq]
  · exact hI.construct _ _ _ h
  · exact hI.construct _ _ _ (hI.raiseEv _ h)

theorem selectMapper (hI : RowStable I) (h : I s) : I (selectMapper s) := by
  have hbuilt : I (if s.cur.mapper.kind = .none then Machine.factory s else s) := by
    split
    · exact hI.factory h
    · exact h
  unfold Machine.selectMapper
  dsimp only
  generalize (if s.cur.mapper.kind = .none then Machine.factory s else s) = t at hbuilt ⊢
  split
  · exact hI.raise _ _ hbuilt
  · exact hI.finish _ _ hbuilt

theorem dscCommit (hI : RowStable I) (g nm : List (List Byte)) (part cap : Bool) (h : I s) :
    I (dscCommit g nm part cap s) := by
  have hset : I (s.setCur { s.cur with guids := g, names := nm, descPartial := part, descSeen := true }) :=
    hI.setCur rfl h
  cases part <;> cases cap
  · exact hset
  · exact hI.raiseEv _ hset
  · exact hI.raiseEv _ hset
  · exact hI.raiseEv _ (hI.raiseEv _ hset)

theorem lazyFallback (hI : RowStable I) (h : I s) : I (lazyFallback s) := by
  have hbuilt : I (Machine.construct .fallback .full .continuous s) := hI.construct _ _ _ h
  unfold Machine.lazyFallback
  dsimp only
  split
  · exact hbuilt
  · split
    · exact hbuilt
    · exact hI.raiseEv _ (hI.setCur rfl hbuilt)

theorem forward (hI : RowStable I) (m : Message) (h : I s) : I (forward m s) := by
  have hmapper : I (if s.cur.mapper.kind = .none then Machine.lazyFallback s else s) := by
    split
    · exact hI.lazyFallback h
    · exact h
  unfold Machine.forward
  dsimp only
  generalize (if s.cur.mapper.kind = .none then Machine.lazyFallback s else s) = t at hmapper ⊢
  split
  · exact hI.raise _ _ hmapper
  · split
    · exact hI.raise _ _ hmapper
    · exact hI.setStage _ hmapper

theorem dispatch_row (hI : RowStable I) {i : Instr} (hl : i.level = .dispatch) (h : I s) : GoesOn I (exec i s) := by
  cases i with
  | ack m | auth m | serial m => exact .next (hI.finish _ _ h)
  | arrival m =>
    refine ⟨_, rfl, ?_⟩
    split
    · exact hI.finish _ _ h
    · split
      · exact hI.raise _ _ h
      · exact hI.finish _ _ (hI.setCur rfl h)
  | descriptor m =>
    refine ⟨_, rfl, ?_⟩
    split
    · exact hI.finish _ _ h
    · split
      · exact hI.raise _ _ h
      · exact hI.selectMapper (hI.dscCommit _ _ _ _ h)
  | keystroke m | input m | ghlInput m | other m => exact .next (hI.forward m h)
  | _ => nomatch hl

/-! ## Level 3 -/

theorem commit (hI : RowStable I) (o : Out) (h : I s) : I (commit o s) :=
  hI.finish _ _ (hI.emit _ (hI.setCur rfl h))

theorem decodeDrums (hI : RowStable I) (d : List Byte) (h : I s) : I (decodeDrums d s) :=
  hI.commit _ (hI.setCur rfl h)

theorem runLayout (hI : RowStable I) (k : Kind) (d : List Byte) (h : I s) : I (runLayout k d s) := by
  cases k with
  | guitar | sixFret | gamepad => exact hI.commit _ h
  | drums => exact hI.decodeDrums d h
  | none | fallback | legacyDemux => exact hI.ignoreMessage h

theorem setChild (hI : RowStable I) (u : Nat) (x : Child) (h : I s) : I (s.setChild u x) := hI.setCur rfl h

theorem disposeChild (hI : RowStable I) (u : Nat) (h : I s) : I (disposeChild u s) := by
  unfold Machine.disposeChild
  split
  · exact h
  · exact hI.emit _ (hI.setChild u _ h)

theorem connectChild (hI : RowStable I) (u : Nat) (k : Kind) (h : I s) : I (connectChild u k s) := by
  have hdisposed : I (Machine.disposeChild u s) := hI.disposeChild u h
  unfold Machine.connectChild
  dsimp only
  split
  · exact hI.finish _ _ (hI.raiseEv _ hdisposed)
  · exact hI.finish _ _ (hI.emit _ (hI.setChild u _ hdisposed))

theorem commitChild (hI : RowStable I) (u : Nat) (o : Out) (h : I s) : I (commitChild u o s) :=
  hI.finish _ _ (hI.emit _ (hI.setChild u _ h))

theorem decodeChildDrums (hI : RowStable I) (u : Nat) (d : List Byte) (h : I s) : I (decodeChildDrums u d s) :=
  hI.commitChild u _ (hI.setChild u _ h)

theorem withUser (hI : RowStable I) (m : Message) {f : LgyCfg → Nat → State} (h : I s) (hf : ∀ l u, I (f l u)) :
    I (withUser m s f) := by
  rcases withUser_cases m s f with ⟨-, e⟩ | ⟨l, -, ⟨-, e⟩ | ⟨-, -, e⟩ | ⟨-, -, e⟩⟩ <;> rw [e]
  · exact hI.ignoreMessage h
  · exact hI.ignoreMessage h
  · exact hI.ignoreMessage (hI.raiseEv _ h)
  · exact hf l _

/-- A report that a layout takes or, of another length, ignores (rule R241). -/
theorem ite_ignore (hI : RowStable I) {p : Prop} [Decidable p] (h : I s) (ht : I t) :
    I (if p then t else Machine.ignoreMessage s) := by
  split
  · exact ht
  · exact hI.ignoreMessage h

theorem report_row (hI : RowStable I) {i : Instr} (hl : i.level = .report) (h : I s) : GoesOn I (exec i s) := by
  cases i with
  | inputGtr m | ghlInputGhl m | inputPad m => exact .next (hI.ite_ignore h (hI.commit _ h))
  | inputDrm m => exact .next (hI.ite_ignore h (hI.decodeDrums _ h))
  | inputFb m =>
    refine ⟨_, rfl, ?_⟩
    split
    · exact hI.runLayout _ _ h
    · exact hI.ignoreMessage h
  | keystrokeGuide m =>
    refine ⟨_, rfl, ?_⟩
    split
    · exact hI.ignoreMessage h
    · split
      · exact hI.ignoreMessage h
      · exact hI.finish _ _ (hI.emit _ (hI.setCur rfl h))
  | lgyConnect m =>
    refine ⟨_, rfl, hI.withUser m h fun l u => ?_⟩
    split
    · exact hI.ignoreMessage h
    · split
      · exact hI.finish _ _ (hI.raiseEv _ h)
      · exact hI.connectChild u _ h
  | lgyDisconnect m => exact ⟨_, rfl, hI.withUser m h fun l u => hI.finish _ _ (hI.disposeChild u h)⟩
  | lgyInput m =>
    refine ⟨_, rfl, hI.withUser m h fun l u => ?_⟩
    split
    · exact hI.ignoreMessage h
    · split
      · exact hI.ignoreMessage h
      · dsimp only
        split
        · exact hI.commitChild u _ h
        · exact hI.ite_ignore h (hI.decodeChildDrums u _ h)
  | noop m => exact .next (hI.ignoreMessage h)
  | _ => nomatch hl

/-! ## The rows after level 1 -/

theorem runNext (hI : RowStable I) (h : I s) : GoesOn I (runNext s) := by
  unfold Machine.runNext nextInstr
  cases s.work.stage with
  | done => exact .next h
  | message m => exact hI.dispatch_row (decodeMessage_level _ _) h
  | report m => exact hI.report_row (decodeReport_level _ _ _) h

/-- What the level-1 row leaves true and later rows keep is true at the step's end. -/
theorem runRows (hI : RowStable I) {i : Instr} (h : GoesOn I (exec i s)) : GoesOn I (runRows i s) :=
  (h.andThen fun _ => hI.runNext).andThen fun _ => hI.runNext

end RowStable

end Sys2Proof.Machine
end

section
/-! Two consecutive unchunked frames of one session with equal command and sequence (rule R173). The first ends with its
session's slot still found by its key and its sequence in the slot's dedup table, whatever its later rows do; the second
finds it there. -/

namespace Sys2Proof.Machine

/-! ## A step that serves a session -/

/-- The step of a frame of `key` runs on slot `n`, which holds the key's session; `rest` are the inputs behind it. -/
structure Serves (key : Key) (n : Nat) (c : Cfg) (rest : List Input) (s : State) : Prop where
  cfg : s.cfg = c
  inputs : s.inputs = rest
  sel : s.work.sel = some n
  found : findKey key s.slots = some n
  named : ∀ res, s.result = some res → res.slot = some n

/-- The step moreover has `seq` in its slot's dedup table as the last sequence of the command `cmd`. -/
structure Remembers (key : Key) (n : Nat) (c : Cfg) (rest : List Input) (cmd seq : Byte) (s : State) : Prop
    extends Serves key n c rest s where
  remembered : Memory.read (s.slot n).seqTab cmd.toNat = some seq

section
variable {key : Key} {n : Nat} {c : Cfg} {rest : List Input} {cmd seq : Byte} {s : State}

theorem Serves.selected (h : Serves key n c rest s) : Selected n s := ⟨h.sel, lt_of_findKey h.found⟩

theorem Serves.setStage (h : Serves key n c rest s) (g : Stage) : Serves key n c rest (setStage g s) := { h with }

theorem Serves.raiseEv (h : Serves key n c rest s) (e : Ev) : Serves key n c rest (raiseEv e s) := { h with }

theorem Serves.setHdr (h : Serves key n c rest s) (hd : Option Hdr) : Serves key n c rest (setHdr hd s) := { h with }

/-- The record of a step names the slot that the step has selected (rule R321). -/
theorem Serves.finish (h : Serves key n c rest s) (code : Code) (v : Nat) : Serves key n c rest (finish code v s) :=
  { h with
    named := fun res hres => by
      obtain rfl := Option.some.inj hres
      exact h.sel }

/-- A write that leaves the session of the slot leaves it to be found. -/
theorem Serves.setSlot (h : Serves key n c rest s) {x : Slot} (hv : x.valid = (s.slot n).valid)
    (ht : x.tag = (s.slot n).tag) : Serves key n c rest (s.setSlot n x) :=
  { h with found := (findKey_set hv ht).trans h.found }

theorem remembers_rowStable : RowStable (Remembers key n c rest cmd seq) where
  emit _ _ h := { h with }
  setStage _ _ h := { h with }
  raiseEv _ _ h := { h with }
  finish code v _ h := { h.toServes.finish code v with remembered := h.remembered }
  setCur {x s} hx h := by
    rw [cur_of_sel h.sel] at hx
    simp only [Slot.framing, Prod.mk.injEq] at hx
    obtain ⟨⟨hv, ht⟩, -, hseq⟩ := hx
    rw [setCur_of_sel h.sel]
    refine { h.toServes.setSlot hv ht with remembered := ?_ }
    rw [slot_setSlot_same h.selected.2, hseq]
    exact h.remembered

/-- After DDP the message's sequence is the last of its command: it was, or it was written (rule R171). -/
theorem Serves.dedup (h : Serves key n c rest s) (m : Message) : Remembers key n c rest m.cmd m.seq (dedup m s) := by
  rcases dedup_cases h.selected m with ⟨hdup, e⟩ | ⟨-, e⟩ <;> rw [e]
  · exact { h.finish _ _ with remembered := hdup }
  · have hwritten : Serves key n c rest (s.setSlot n
        { s.slot n with seqTab := Memory.write (s.slot n).seqTab m.cmd.toNat [m.seq] }) := h.setSlot rfl rfl
    refine { hwritten.setStage _ with remembered := ?_ }
    rw [setStage_slot, slot_setSlot_same h.selected.2, read_write_singleton, if_pos rfl]

/-- The update of the dedup table stands whatever follows (rule R172). -/
theorem Serves.runRows_msg (h : Serves key n c rest s) (hd : Hdr) (p : List Byte) :
    GoesOn (Remembers key n c rest hd.cmd hd.seq) (runRows (.msg hd p) s) :=
  remembers_rowStable.runRows ⟨_, rfl, h.dedup (plainMessage hd p)⟩

end

/-! ## ROUTE -/

/-- A session allocated for a key that had none is the one that the key finds (rules R22, R131). -/
theorem findKey_set_new {key : Key} {slots : List Slot} {i : Nat} {x : Slot} (hi : i < slots.length)
    (hk : findKey key slots = none) (hv : x.valid = true) (ht : x.tag = key) :
    findKey key (slots.set i x) = some i := by
  refine List.findIdx?_eq_some_iff_getElem.mpr ⟨by simpa using hi, by simp [hv, ht], fun j hj => ?_⟩
  have hother : (slots.set i x)[j]'(by simp; omega) = slots[j] := List.getElem_set_ne (by omega) _
  have hnone := findKey_none.mp hk slots[j] (List.getElem_mem _)
  simpa [hother] using hnone

theorem serves_of_findKey {key : Key} {o r : Bool} {rest : List Input} {s : State} {n : Nat}
    (h : findKey key s.slots = some n) : Serves key n s.cfg rest (select n (frameStart key o r rest s)) where
  cfg := rfl
  inputs := rfl
  sel := rfl
  found := h
  named := nofun

/-- ROUTE hands the step the slot of its session. -/
theorem serves_of_route {key : Key} {o r : Bool} {rest : List Input} {s t : State}
    (h : route key (frameStart key o r rest s) = some t) : ∃ n, Serves key n s.cfg rest t := by
  rcases route_cases key (frameStart key o r rest s) with ⟨i, hk, -, e⟩ | ⟨i, hk, -, hi, e⟩ | ⟨-, -, e⟩ <;>
    rw [e] at h <;> cases h
  · exact ⟨i, serves_of_findKey hk⟩
  · exact ⟨i, { cfg := rfl, inputs := rfl, sel := rfl, found := findKey_set_new hi hk rfl rfl, named := nofun }⟩

/-- The record of an exception names the slot of the step. -/
theorem slot_of_raise {c : Code} {v : Nat} {s : State} {res : Result} (h : (raise c v s).result = some res) :
    res.slot = s.work.sel := by
  obtain rfl := Option.some.inj h
  show (raiseClass c.cls s).work.sel = s.work.sel
  cases c.cls <;> rfl

section
variable {key : Key} {bytes : List Byte} {o r : Bool} {rest : List Input} {s t : State} {p : Parsed} {n : Nat}

/-- A frame whose record names a slot was neither too long nor without a slot. -/
theorem routed_of_named (hin : s.inputs = .deliver key bytes o r :: rest) {res : Result} (hstep : step s = .next t)
    (hres : t.result = some res) (hslot : res.slot = some n) :
    bytes.length ≤ s.cfg.frameMax ∧ ∃ u, route key (frameStart key o r rest s) = some u := by
  have hturned {c : Code} {v : Nat} (h : step s = .next (endStep (raise c v (frameStart key o r rest s)))) : False := by
    obtain rfl := Host.Outcome.next.inj (h.symm.trans hstep)
    exact nomatch (slot_of_raise hres).symm.trans hslot
  by_cases hlen : bytes.length ≤ s.cfg.frameMax
  · rcases route_cases key (frameStart key o r rest s) with ⟨i, -, -, e⟩ | ⟨i, -, -, -, e⟩ | ⟨hk, hf, -⟩
    · exact ⟨hlen, _, e⟩
    · exact ⟨hlen, _, e⟩
    · exact (hturned (step_of_full hin hlen hk hf)).elim
  · exact (hturned (step_of_oversize hin (Nat.lt_of_not_le hlen))).elim

/-! ## The step of an unchunked frame -/

/-- The state in which the row of a frame runs that parsed into `p`, from the state that ROUTE left (rules R23, R136). -/
def messageStart (p : Parsed) (t : State) : State :=
  if p.trailing then raiseEv .trailing (setHdr (some p.hdr) t) else setHdr (some p.hdr) t

@[simp] theorem messageStart_slots (p : Parsed) (t : State) : (messageStart p t).slots = t.slots := by
  unfold messageStart
  split <;> rfl

@[simp] theorem messageStart_sel (p : Parsed) (t : State) : (messageStart p t).work.sel = t.work.sel := by
  unfold messageStart
  split <;> rfl

@[simp] theorem messageStart_events (p : Parsed) (t : State) : (messageStart p t).events = t.events := by
  unfold messageStart
  split <;> rfl

theorem Serves.messageStart {c : Cfg} (h : Serves key n c rest t) (p : Parsed) :
    Serves key n c rest (messageStart p t) := by
  unfold Machine.messageStart
  split
  · exact (h.setHdr _).raiseEv _
  · exact h.setHdr _

/-- An unchunked frame that ROUTE finds a slot for runs MSG (rule R137). -/
theorem step_of_unchunked (hin : s.inputs = .deliver key bytes o r :: rest) (hlen : bytes.length ≤ s.cfg.frameMax)
    (hroute : route key (frameStart key o r rest s) = some t) (hp : parseFrame s.cfg bytes = .ok p)
    (hidx : p.idx = none) {v : State} (hrows : runRows (.msg p.hdr p.payload) (messageStart p t) = .next v) :
    step s = .next (endStep v) := by
  have hcfg : t.cfg = s.cfg := Eq.trans (route_cfg hroute) rfl
  have hfetch : fetch (.deliver key bytes o r) (stepStart rest s) = fetchHeader bytes t :=
    fetchFrame_of_route_some hlen hroute
  have hmsg : decodeFraming t.ctx p = .msg p.hdr p.payload := by rw [decodeFraming, hidx]
  rw [← hcfg] at hp
  rw [fetchHeader_of_ok hp, hmsg] at hfetch
  exact step_of_run hin hfetch hrows

/-- The step of a message leaves its session to be found by its key, with its sequence remembered (rules R171, R172). -/
theorem step_remembers {res : Result} (hin : s.inputs = .deliver key bytes o r :: rest)
    (hp : parseFrame s.cfg bytes = .ok p) (hidx : p.idx = none) (hstep : step s = .next t)
    (hres : t.result = some res) (hslot : res.slot = some n) :
    ∃ v, t = endStep v ∧ Remembers key n s.cfg rest p.hdr.cmd p.hdr.seq v := by
  obtain ⟨hlen, u, hroute⟩ := routed_of_named hin hstep hres hslot
  obtain ⟨i, hserves⟩ := serves_of_route hroute
  obtain ⟨v, hrows, hv⟩ := (hserves.messageStart p).runRows_msg p.hdr p.payload
  obtain rfl := Host.Outcome.next.inj ((step_of_unchunked hin hlen hroute hp hidx hrows).symm.trans hstep)
  obtain rfl : i = n := Option.some.inj ((hv.named res hres).symm.trans hslot)
  exact ⟨v, rfl, hv⟩

/-- A message whose sequence its session's slot remembers ends its step in MSG's row, which writes no slot (rule R171). -/
theorem step_of_remembered (hin : s.inputs = .deliver key bytes o r :: rest) (hlen : bytes.length ≤ s.cfg.frameMax)
    (hkey : findKey key s.slots = some n) (hp : parseFrame s.cfg bytes = .ok p) (hidx : p.idx = none)
    (hseq : Memory.read (s.slot n).seqTab p.hdr.cmd.toNat = some p.hdr.seq) :
    step s = .next (endStep (endedWith s.slots 0 [] .okDuplicate
      (BitVec.ofNat 32 (p.hdr.cmd.toNat + 256 * p.hdr.seq.toNat))
      (messageStart p (select n (frameStart key o r rest s))))) := by
  have hroute : route key (frameStart key o r rest s) = some (select n (frameStart key o r rest s)) :=
    route_of_findKey hkey
  have hserves : Serves key n s.cfg rest (messageStart p (select n (frameStart key o r rest s))) :=
    (serves_of_findKey hkey).messageStart p
  have hslots : (messageStart p (select n (frameStart key o r rest s))).slots = s.slots := messageStart_slots _ _
  refine step_of_unchunked hin hlen hroute hp hidx ?_
  rw [runRows, exec_msg_duplicate hserves.selected _ _ ((slot_congr hslots n).symm ▸ hseq), hslots]
  simp [andThen, runNext_of_done, endedWith]

end

/-- Settles O24: the first step leaves the sequence in the session's table, and the second reads it there. -/
theorem secondEqualMessageIsDuplicate : Obligations.SecondEqualMessageIsDuplicate := by
  unfold Obligations.SecondEqualMessageIsDuplicate
  intro s t u key b1 b2 o1 r1 o2 r2 rest p1 p2 res n hin hp1 hidx1 hp2 hidx2 hcmd hseq hlen hstep hres hslot hstep'
  obtain ⟨v, rfl, hv⟩ := step_remembers hin hp1 hidx1 hstep hres hslot
  have hcfg : (endStep v).cfg = s.cfg := hv.cfg
  have hremembered : Memory.read ((endStep v).slot n).seqTab p2.hdr.cmd.toNat = some p2.hdr.seq := by
    rw [endStep_slot, ← hcmd, ← hseq]
    exact hv.remembered
  have hdup := step_of_remembered (s := endStep v) hv.inputs (hcfg ▸ hlen) hv.found (hcfg ▸ hp2) hidx2 hremembered
  obtain rfl := Host.Outcome.next.inj (hdup.symm.trans hstep')
  exact ⟨_, rfl, rfl, messageStart_sel _ _, rfl, (List.append_nil _).trans (messageStart_events _ _)⟩

end Sys2Proof.Machine
end

section
/-! A row on its way to its end: what it has written, raised and emitted so far. Each shared operation of levels 2 and 3
answers such a state, and two of them in a row make one. -/

namespace Sys2Proof.Machine

/-- The state `s` after a part of a row: `slots` are the slots then, `raised` the flags raised, `ev` the sink operations
appended so far. Every other register, the stage included, is as before. -/
def partway (slots : List Slot) (raised : BitVec 16) (ev : List Event) (s : State) : State :=
  passedOn slots raised ev s.work.stage s

section
variable {n : Nat} {s : State} {slots : List Slot} {raised : BitVec 16} {ev : List Event}

@[simp] theorem partway_cfg : (partway slots raised ev s).cfg = s.cfg := rfl
@[simp] theorem partway_slots : (partway slots raised ev s).slots = slots := rfl
@[simp] theorem partway_sel : (partway slots raised ev s).work.sel = s.work.sel := rfl
@[simp] theorem partway_openOk : (partway slots raised ev s).work.openOk = s.work.openOk := rfl
@[simp] theorem partway_ready : (partway slots raised ev s).work.ready = s.work.ready := rfl

@[simp] theorem partway_partway (slots' : List Slot) (raised' : BitVec 16) (ev' : List Event) :
    partway slots' raised' ev' (partway slots raised ev s) = partway slots' (raised ||| raised') (ev ++ ev') s := by
  simp [partway, passedOn, BitVec.or_assoc]

@[simp] theorem endedWith_partway (slots' : List Slot) (raised' : BitVec 16) (ev' : List Event) (c : Code)
    (info : BitVec 32) : endedWith slots' raised' ev' c info (partway slots raised ev s)
      = endedWith slots' (raised ||| raised') (ev ++ ev') c info s := by
  simp [partway, passedOn, endedWith, BitVec.or_assoc]

theorem finish_partway (c : Code) (v : Nat) :
    finish c v (partway slots raised ev s) = endedWith slots raised ev c (info32 v) s := rfl

theorem raise_partway_of_unsupported {c : Code} (h : c.cls = .unsupported) (v : Nat) :
    raise c v (partway slots raised ev s) = endedWith slots (raised ||| 0x0002) ev c (info32 v) s := by
  simp [raise_of_unsupported h]

theorem setStage_partway (g : Stage) : setStage g (partway slots raised ev s) = passedOn slots raised ev g s := rfl

theorem raiseEv_eq_partway (e : Ev) (s : State) : raiseEv e s = partway s.slots e.mask [] s := by
  simp [raiseEv, partway, passedOn]

theorem setSlot_eq_partway (n : Nat) (x : Slot) (s : State) : s.setSlot n x = partway (s.slots.set n x) 0 [] s := by
  simp [State.setSlot, partway, passedOn]

theorem setStage_eq_passedOn (g : Stage) (s : State) : setStage g s = passedOn s.slots 0 [] g s := by
  simp [setStage, passedOn]

/-- The part of a row that raises a flag under a condition (rule R222). -/
theorem raiseEv_if (b : Bool) (e : Ev) (s : State) :
    (if b then raiseEv e s else s) = partway s.slots (if b then e.mask else 0) [] s := by
  cases b with
  | false => simp [partway, passedOn]
  | true => exact raiseEv_eq_partway e s

theorem cur_partway_self (raised : BitVec 16) (ev : List Event) (s : State) :
    (partway s.slots raised ev s).cur = s.cur := cur_congr rfl rfl

/-- A part of a row that writes slot `n` leaves it selected, and what was written is what the rest of the row reads. -/
theorem Selected.partway_set (h : Selected n s) (x : Slot) (raised : BitVec 16) (ev : List Event) :
    Selected n (partway (s.slots.set n x) raised ev s) ∧ (partway (s.slots.set n x) raised ev s).slot n = x :=
  ⟨⟨h.1, by simpa using h.2⟩, by simp [State.slot, h.2]⟩

theorem Selected.cur_partway_set (h : Selected n s) (x : Slot) (raised : BitVec 16) (ev : List Event) :
    (partway (s.slots.set n x) raised ev s).cur = x := by
  obtain ⟨hsel, hslot⟩ := h.partway_set x raised ev
  rw [cur_of_sel hsel.1, hslot]

/-! ## Construction of a mapper (rules R190, R192, R196) -/

theorem construct_of_refused (h : Selected n s) (ho : s.work.openOk = false) (k : Kind) (am : AxisMode)
    (pm : PickupMode) : construct k am pm s = partway s.slots 0x0002 [] s := by
  rcases construct_cases h k am pm with ⟨-, e⟩ | ⟨ho', -⟩
  · rw [e, raiseEv_eq_partway]
    rfl
  · exact absurd ho' (by simp [ho])

theorem construct_of_open (h : Selected n s) (ho : s.work.openOk = true) (k : Kind) (am : AxisMode) (pm : PickupMode) :
    construct k am pm s = partway (s.slots.set n ((s.slot n).mapped k am pm)) 0 (opens n k) s := by
  rcases construct_cases h k am pm with ⟨ho', -⟩ | ⟨-, e⟩
  · exact absurd ho' (by simp [ho])
  · simp [e, partway, passedOn]

theorem lazyFallback_of_refused (h : Selected n s) (hk : (s.slot n).mapper.kind = .none)
    (ho : s.work.openOk = false) : lazyFallback s = partway s.slots 0x0002 [] s := by
  rcases lazyFallback_cases h hk with ⟨-, e⟩ | ⟨ho', -⟩ | ⟨ho', -⟩
  · rw [e, raiseEv_eq_partway]
    rfl
  · exact absurd ho' (by simp [ho])
  · exact absurd ho' (by simp [ho])

/-- Lazy construction with a sink that opens: the Fallback stands, the warning has been given, and its flag is raised
the first time only (rule R196). -/
theorem lazyFallback_of_open (h : Selected n s) (hk : (s.slot n).mapper.kind = .none) (ho : s.work.openOk = true) :
    lazyFallback s = partway
      (s.slots.set n { (s.slot n).mapped .fallback .full .continuous with fbWarned := true })
      (if (s.slot n).fbWarned then 0 else 0x0010) (opens n .fallback) s := by
  rcases lazyFallback_cases h hk with ⟨ho', -⟩ | ⟨-, hw, e⟩ | ⟨-, hw, e⟩
  · exact absurd ho' (by simp [ho])
  · have hslot : { (s.slot n).mapped .fallback .full .continuous with fbWarned := true }
        = (s.slot n).mapped .fallback .full .continuous := by simp [Slot.mapped, hw]
    simp [e, hw, hslot, partway, passedOn]
  · simp [e, hw, raiseEv, partway, passedOn, Ev.mask, Ev.bit]

theorem factory_of_match (h : Selected n s) {e : GuidEntry} (he : guidMatches s.cfg (s.slot n).guids = [e]) :
    factory s = construct e.kind e.axisMode e.pickupMode s := by
  rw [← cur_of_sel h.1] at he
  rcases factory_cases s with ⟨e', he', hf⟩ | ⟨hlen, -⟩
  · obtain rfl : e' = e := by simpa [he] using he'.symm
    exact hf
  · exact absurd (by rw [he]; rfl) hlen

theorem factory_of_ambiguous (h : Selected n s) (hlen : (guidMatches s.cfg (s.slot n).guids).length ≠ 1) :
    factory s = construct .fallback .full .continuous (partway s.slots 0x0008 [] s) := by
  rw [← cur_of_sel h.1] at hlen
  rcases factory_cases s with ⟨e, he, -⟩ | ⟨-, hf⟩
  · exact absurd (by rw [he]; rfl) hlen
  · rw [hf, raiseEv_eq_partway]
    rfl

end

end Sys2Proof.Machine
end

section
/-! The level-2 rows ARRIVAL, ACK, AUTH and SERIAL (rules R184, R186). -/

namespace Sys2Proof.Machine

/-- Two half words as one info value, the low one first (rule R184). -/
theorem info32_halves (lo hi : Half) : info32 (lo.toNat + 65536 * hi.toNat) = hi ++ lo := by
  have hlo := lo.isLt
  have hhi := hi.isLt
  rw [info32_of_lt (by omega)]
  refine BitVec.eq_of_toNat_eq ?_
  rw [BitVec.toNat_append, ← Nat.shiftLeft_add_eq_or_of_lt hlo, Nat.shiftLeft_eq, BitVec.toNat_ofNat,
    Nat.mod_eq_of_lt (by omega)]
  omega

section
variable {n : Nat} {s : State}

theorem exec_arrival_seen (h : Selected n s) (m : Message) (hseen : (s.slot n).arrivalSeen = true) :
    exec (.arrival m) s = .next (endedWith s.slots 0 [] .okIgnored 0 s) := by
  rw [← cur_of_sel h.1] at hseen
  exact congrArg Host.Outcome.next ((if_pos hseen).trans (finish_eq_endedWith .okIgnored 0 s))

theorem exec_arrival_short (h : Selected n s) {m : Message} (hseen : (s.slot n).arrivalSeen = false)
    (hlen : m.data.length < s.cfg.arr.minLen) :
    exec (.arrival m) s = .next (endedWith s.slots 0x0001 [] .invArrivalShort (info32 m.data.length) s) := by
  have hfresh : ¬s.cur.arrivalSeen = true := by simp [cur_of_sel h.1, hseen]
  rw [← raise_of_invalid rfl]
  exact congrArg Host.Outcome.next ((if_neg hfresh).trans (if_pos hlen))

theorem exec_arrival_stored (h : Selected n s) {m : Message} (hseen : (s.slot n).arrivalSeen = false)
    (hlen : s.cfg.arr.minLen ≤ m.data.length) :
    exec (.arrival m) s = .next (endedWith
      (s.slots.set n { s.slot n with
        vid := le16 m.data s.cfg.arr.vidOff, pid := le16 m.data s.cfg.arr.pidOff, arrivalSeen := true })
      0 [] .okArrival (le16 m.data s.cfg.arr.pidOff ++ le16 m.data s.cfg.arr.vidOff) s) := by
  have hfresh : ¬s.cur.arrivalSeen = true := by simp [cur_of_sel h.1, hseen]
  rw [← info32_halves, ← finish_partway, ← setSlot_eq_partway, ← setCur_of_sel h.1, ← cur_of_sel h.1]
  exact congrArg Host.Outcome.next ((if_neg hfresh).trans (if_neg (Nat.not_lt.mpr hlen)))

end

/-- Settles O31, by the two tests of ARRIVAL in their order. -/
theorem arrivalStoresIdsOnce : Obligations.ArrivalStoresIdsOnce := by
  unfold Obligations.ArrivalStoresIdsOnce
  exact fun n s m h => ⟨exec_arrival_seen h m, exec_arrival_short h, exec_arrival_stored h⟩

/-- Settles O32: the three rows are one `finish`. -/
theorem systemCommandsIgnored : Obligations.SystemCommandsIgnored := by
  unfold Obligations.SystemCommandsIgnored
  intro s m
  have hignored : finish .okIgnored 0 s = endedWith s.slots 0 [] .okIgnored 0 s := finish_eq_endedWith .okIgnored 0 s
  exact ⟨congrArg _ hignored, congrArg _ hignored, congrArg _ hignored⟩

end Sys2Proof.Machine
end

section
/-! The level-2 row DESCRIPTOR (rules R185, R190, R192, R222): the parse, the commit, the selection of a mapper. -/

namespace Sys2Proof.Machine

/-- Slot `x` with a parsed descriptor stored (rule R222). -/
def Slot.described (x : Slot) (g nm : List (List Byte)) (part : Bool) : Slot :=
  { x with guids := g, names := nm, descPartial := part, descSeen := true }

/-- The flags that the commit of a parse raises (rule R222). -/
def parseFlags (part cap : Bool) : BitVec 16 := (if part then 0x0004 else 0) ||| (if cap then 0x0040 else 0)

/-- The info of `OK_DESCRIPTOR` (rule R185), with `k` matches. -/
def descriptorInfo (x : Slot) (k : Nat) : BitVec 32 :=
  info32 (x.guids.length + 256 * x.names.length + 65536 * min k 255 + 2 ^ 24 * kindCode x.mapper.kind)

section
variable {n : Nat} {s : State}

theorem dscCommit_eq_partway (h : Selected n s) (g nm : List (List Byte)) (part cap : Bool) :
    dscCommit g nm part cap s
      = partway (s.slots.set n ((s.slot n).described g nm part)) (parseFlags part cap) [] s := by
  have hstored : s.setCur { s.cur with guids := g, names := nm, descPartial := part, descSeen := true }
      = partway (s.slots.set n ((s.slot n).described g nm part)) 0 [] s := by
    rw [setCur_of_sel h.1, setSlot_eq_partway, cur_of_sel h.1]
    rfl
  simp only [dscCommit, hstored, raiseEv_if, partway_partway, partway_slots]
  simp [parseFlags, Ev.mask, Ev.bit]

/-! ## The selection after the commit -/

theorem selectMapper_of_mapper (h : Selected n s) (hk : (s.slot n).mapper.kind ≠ .none) :
    selectMapper s = endedWith s.slots 0 [] .okDescriptor
      (descriptorInfo (s.slot n) (guidMatches s.cfg (s.slot n).guids).length) s := by
  rw [← cur_of_sel h.1] at hk
  rw [descriptorInfo, ← finish_eq_endedWith, ← cur_of_sel h.1]
  simp [selectMapper, hk]

/-- A session without a mapper gets the one that the factory constructs. -/
theorem selectMapper_of_constructed (h : Selected n s) (hnone : (s.slot n).mapper.kind = .none) {k : Kind}
    {am : AxisMode} {pm : PickupMode} {raised : BitVec 16} {ev : List Event} (hk : k ≠ .none)
    (hf : factory s = partway (s.slots.set n ((s.slot n).mapped k am pm)) raised ev s) :
    selectMapper s = endedWith (s.slots.set n ((s.slot n).mapped k am pm)) raised ev .okDescriptor
      (descriptorInfo ((s.slot n).mapped k am pm) (guidMatches s.cfg (s.slot n).guids).length) s := by
  have hcur := h.cur_partway_set ((s.slot n).mapped k am pm) raised ev
  have hkind : ((s.slot n).mapped k am pm).mapper.kind ≠ .none := hk
  simp [selectMapper, cur_of_sel h.1, hnone, hf, hcur, hkind, descriptorInfo, finish_partway]

theorem selectMapper_of_refused (h : Selected n s) (hnone : (s.slot n).mapper.kind = .none) {raised : BitVec 16}
    {ev : List Event} (hf : factory s = partway s.slots raised ev s) :
    selectMapper s = endedWith s.slots (raised ||| 0x0002) ev .unsNoSink 0 s := by
  simp only [selectMapper, cur_of_sel h.1, hnone, hf, cur_partway_self, if_true]
  exact raise_partway_of_unsupported rfl 0

theorem selectMapper_of_match (h : Selected n s) (hnone : (s.slot n).mapper.kind = .none)
    (ho : s.work.openOk = true) {e : GuidEntry} (he : guidMatches s.cfg (s.slot n).guids = [e])
    (hk : e.kind ≠ .none) :
    selectMapper s = endedWith (s.slots.set n ((s.slot n).mapped e.kind e.axisMode e.pickupMode)) 0 (opens n e.kind)
      .okDescriptor (descriptorInfo ((s.slot n).mapped e.kind e.axisMode e.pickupMode) 1) s := by
  have hf := (factory_of_match h he).trans (construct_of_open h ho _ _ _)
  rw [selectMapper_of_constructed h hnone hk hf, he]
  rfl

theorem selectMapper_of_ambiguous (h : Selected n s) (hnone : (s.slot n).mapper.kind = .none)
    (ho : s.work.openOk = true) (hlen : (guidMatches s.cfg (s.slot n).guids).length ≠ 1) :
    selectMapper s = endedWith (s.slots.set n ((s.slot n).mapped .fallback .full .continuous)) 0x0008
      (opens n .fallback) .okDescriptor (descriptorInfo ((s.slot n).mapped .fallback .full .continuous)
        (guidMatches s.cfg (s.slot n).guids).length) s := by
  refine selectMapper_of_constructed h hnone (by decide) ?_
  have hwarned : Selected n (partway s.slots 0x0008 [] s) := h
  rw [factory_of_ambiguous h hlen, construct_of_open hwarned ho, partway_partway]
  rfl

theorem selectMapper_of_no_sink (h : Selected n s) (hnone : (s.slot n).mapper.kind = .none)
    (ho : s.work.openOk = false) :
    selectMapper s = endedWith s.slots
      ((if (guidMatches s.cfg (s.slot n).guids).length = 1 then 0 else 0x0008) ||| 0x0002) [] .unsNoSink 0 s := by
  by_cases hlen : (guidMatches s.cfg (s.slot n).guids).length = 1
  · obtain ⟨e, he⟩ := List.length_eq_one_iff.mp hlen
    rw [selectMapper_of_refused h hnone ((factory_of_match h he).trans (construct_of_refused h ho _ _ _)), if_pos hlen]
    rfl
  · have hwarned : Selected n (partway s.slots 0x0008 [] s) := h
    have hf := (factory_of_ambiguous h hlen).trans (construct_of_refused hwarned ho _ _ _)
    rw [partway_partway] at hf
    rw [selectMapper_of_refused h hnone hf, if_neg hlen]
    rfl

/-! ## The row -/

theorem exec_descriptor_seen (h : Selected n s) (m : Message) (hseen : (s.slot n).descSeen = true) :
    exec (.descriptor m) s = .next (endedWith s.slots 0 [] .okIgnored 0 s) := by
  rw [← cur_of_sel h.1] at hseen
  exact congrArg Host.Outcome.next ((if_pos hseen).trans (finish_eq_endedWith .okIgnored 0 s))

theorem exec_descriptor_bad (h : Selected n s) {m : Message} {info : Nat} (hseen : (s.slot n).descSeen = false)
    (hparse : dscParse s.cfg m.data = .bad info) :
    exec (.descriptor m) s = .next (endedWith s.slots 0x0001 [] .invDescHeader (info32 info) s) := by
  rw [← cur_of_sel h.1] at hseen
  rw [← raise_of_invalid rfl]
  simp [exec, execDescriptor, hseen, hparse]

/-- A parsed descriptor is stored, and the selection runs on what was stored. -/
theorem exec_descriptor_parsed (h : Selected n s) {m : Message} {g nm : List (List Byte)} {part cap : Bool}
    (hseen : (s.slot n).descSeen = false) (hparse : dscParse s.cfg m.data = .ok g nm part cap) :
    exec (.descriptor m) s = .next (selectMapper
      (partway (s.slots.set n ((s.slot n).described g nm part)) (parseFlags part cap) [] s)) := by
  rw [← dscCommit_eq_partway h]
  rw [← cur_of_sel h.1] at hseen
  simp [exec, execDescriptor, hseen, hparse]

end

/-- Settles O33: the selection on the slot that holds the parse, by the number of matches. -/
theorem descriptorSelectsMapper : Obligations.DescriptorSelectsMapper := by
  unfold Obligations.DescriptorSelectsMapper
  refine ⟨⟨rfl, rfl, rfl, rfl, rfl, rfl, rfl⟩, fun n s m g nm part cap h hseen hparse hnone ho => ?_⟩
  obtain ⟨hsel, hslot⟩ := Selected.partway_set h ((s.slot n).described g nm part) (parseFlags part cap) []
  rw [exec_descriptor_parsed h hseen hparse]
  refine ⟨fun e he hk => ?_, fun k hlen hk => ?_⟩
  · rw [selectMapper_of_match hsel (by rw [hslot]; exact hnone) ho (by rw [hslot]; exact he) hk, hslot]
    simp [descriptorInfo, Slot.described, Slot.mapped, parseFlags]
  · subst hlen
    rw [selectMapper_of_ambiguous hsel (by rw [hslot]; exact hnone) ho (by rw [hslot]; exact hk), hslot]
    simp [descriptorInfo, Slot.described, Slot.mapped, parseFlags, guidMatches, kindCode]

/-- Settles O34: the two early ends of the row, and the selection that constructs nothing. -/
theorem descriptorWithoutSelection : Obligations.DescriptorWithoutSelection := by
  unfold Obligations.DescriptorWithoutSelection
  intro n s m h
  refine ⟨exec_descriptor_seen h m, fun info => exec_descriptor_bad h, fun g nm part cap hseen hparse => ?_⟩
  obtain ⟨hsel, hslot⟩ := Selected.partway_set h ((s.slot n).described g nm part) (parseFlags part cap) []
  rw [exec_descriptor_parsed h hseen hparse]
  refine ⟨fun hnone ho => ?_, fun hk => ?_⟩
  · rw [selectMapper_of_no_sink hsel (by rw [hslot]; exact hnone) ho, hslot]
    simp [Slot.described, parseFlags, guidMatches, BitVec.or_assoc]
  · rw [selectMapper_of_mapper hsel (by rw [hslot]; exact hk), hslot]
    simp [descriptorInfo, Slot.described, parseFlags, guidMatches]

end Sys2Proof.Machine
end

section
/-! The level-2 rows that forward to the mapper: KEYSTROKE, INPUT, GHLINPUT and OTHER (rules R187, R195, R196). -/

namespace Sys2Proof.Machine

section
variable {n : Nat} {s : State}

theorem exec_forwarded {m : Message} {i : Instr}
    (hi : i = .keystroke m ∨ i = .input m ∨ i = .ghlInput m ∨ i = .other m) (s : State) :
    exec i s = .next (forward m s) := by
  rcases hi with rfl | rfl | rfl | rfl <;> rfl

theorem forward_mapper_ready (h : Selected n s) (hk : (s.slot n).mapper.kind ≠ .none) (m : Message)
    (hr : s.work.ready = true) : forward m s = passedOn s.slots 0 [] (.report m) s := by
  rw [forward_mapper (by rwa [cur_of_sel h.1]), if_neg (by simp [hr]), setStage_eq_passedOn]

theorem forward_mapper_not_ready (h : Selected n s) (hk : (s.slot n).mapper.kind ≠ .none) (m : Message)
    (hr : s.work.ready = false) : forward m s = endedWith s.slots 0x0002 [] .unsNotReady 0 s := by
  rw [forward_mapper (by rwa [cur_of_sel h.1]), if_pos hr]
  exact raise_of_unsupported rfl 0 s

theorem forward_no_sink (h : Selected n s) (hnone : (s.slot n).mapper.kind = .none) (m : Message)
    (ho : s.work.openOk = false) : forward m s = endedWith s.slots 0x0002 [] .unsNoSink 0 s := by
  rw [← cur_of_sel h.1] at hnone
  rw [forward_none hnone, lazyFallback_of_refused h (cur_of_sel h.1 ▸ hnone) ho, if_pos (by rwa [cur_partway_self])]
  exact raise_partway_of_unsupported rfl 0

/-- Once the lazy Fallback stands, only the sink's readiness is tested (rules R195, R196). -/
theorem forward_lazyFallback (h : Selected n s) (hnone : (s.slot n).mapper.kind = .none) (m : Message)
    (ho : s.work.openOk = true) :
    forward m s = if s.work.ready = false then raise .unsNotReady 0 (lazyFallback s)
      else setStage (.report m) (lazyFallback s) := by
  have hfallback : (lazyFallback s).cur.mapper.kind ≠ .none := by
    rw [lazyFallback_of_open h hnone ho, h.cur_partway_set]
    simp [Slot.mapped]
  have hready : (lazyFallback s).work.ready = s.work.ready := by rw [lazyFallback_of_open h hnone ho, partway_ready]
  rw [forward_none (by rwa [cur_of_sel h.1]), if_neg hfallback, hready]

end

/-- Settles O39: with a mapper only the sink's readiness is tested. -/
theorem forwardedToExistingMapper : Obligations.ForwardedToExistingMapper := by
  unfold Obligations.ForwardedToExistingMapper
  intro n s m i h hi hk
  rw [exec_forwarded hi]
  exact ⟨fun hr => congrArg _ (forward_mapper_ready h hk m hr),
    fun hr => congrArg _ (forward_mapper_not_ready h hk m hr)⟩

/-- Settles O40: the construction is refused, or the Fallback stands and the sink's readiness decides. -/
theorem forwardedBuildsLazyFallback : Obligations.ForwardedBuildsLazyFallback := by
  unfold Obligations.ForwardedBuildsLazyFallback
  intro n s m i h hi hnone
  rw [exec_forwarded hi]
  refine ⟨fun ho => congrArg _ (forward_no_sink h hnone m ho), fun ho hr => ?_, fun ho hr => ?_⟩
  · rw [forward_lazyFallback h hnone m ho, if_neg (by simp [hr]), lazyFallback_of_open h hnone ho, setStage_partway]
  · rw [forward_lazyFallback h hnone m ho, if_pos hr, lazyFallback_of_open h hnone ho]
    exact congrArg _ (raise_partway_of_unsupported rfl 0)

end Sys2Proof.Machine
end

section
/-! The descriptor parser's header checks (rule R211), and what one list of a descriptor answers by its table entry
(rules R213, R217, R218). -/

namespace Sys2Proof.Machine

section
variable {c : Cfg} {d : List Byte} {t bound : Nat}

/-- A descriptor whose header passes is parsed: its two lists, each read inside the declared length. -/
theorem dscParse_of_header (h : DscHeader c d t bound) :
    dscParse c d = .ok (parseList d t bound c.dsc.entGuids (guidLoop c d bound)).items
      (parseList d t bound c.dsc.entNames (nameLoop c d bound)).items
      ((parseList d t bound c.dsc.entGuids (guidLoop c d bound)).part
        || (parseList d t bound c.dsc.entNames (nameLoop c d bound)).part)
      ((parseList d t bound c.dsc.entGuids (guidLoop c d bound)).cap
        || (parseList d t bound c.dsc.entNames (nameLoop c d bound)).cap) := by
  obtain ⟨rfl, rfl, hmin, hle, hlen⟩ := h
  rw [dscParse, if_neg (by omega), if_neg (by omega), if_neg (by omega)]

theorem dscParse_of_short (h : d.length < c.dsc.hdrMin) : dscParse c d = .bad (256 * d.length) := by
  rw [dscParse, if_pos h, Nat.zero_add]

theorem dscParse_of_long_length (hmin : c.dsc.hdrMin ≤ d.length) (h : d.length < (le16 d c.dsc.dlenOff).toNat) :
    dscParse c d = .bad (1 + 256 * (le16 d c.dsc.dlenOff).toNat) := by
  rw [dscParse, if_neg (by omega), if_pos h]

theorem dscParse_of_bad_table (hmin : c.dsc.hdrMin ≤ d.length) (hlen : (le16 d c.dsc.dlenOff).toNat ≤ d.length)
    (h : (le16 d c.dsc.hlenOff).toNat < c.dsc.hdrMin ∨ (le16 d c.dsc.dlenOff).toNat < (le16 d c.dsc.hlenOff).toNat) :
    dscParse c d = .bad (2 + 256 * (le16 d c.dsc.hlenOff).toNat) := by
  rw [dscParse, if_neg (by omega), if_neg (by omega), if_pos h]

end

section
variable {d : List Byte} {t bound k : Nat}

theorem fits_eq_true_iff {p n : Nat} : fits bound p n = true ↔ p + n ≤ bound := decide_eq_true_iff

theorem fits_eq_false_iff {p n : Nat} : fits bound p n = false ↔ bound < p + n := by
  rw [fits, decide_eq_false_iff_not, Nat.not_le]

theorem tableEntry_of_inside (h : t + 2 * k + 2 ≤ bound) :
    tableEntry d t bound k
      = if le16 d (t + 2 * k) = 0 then .absent else .start (t + (le16 d (t + 2 * k)).toNat) := by
  simp only [tableEntry, fits_eq_false_iff, if_neg (Nat.not_lt.mpr h), BitVec.toNat_eq,
    BitVec.ofNat_eq_ofNat, BitVec.toNat_ofNat, Nat.zero_mod]

theorem parseList_of_absent {loop : Nat → Nat → Acc → Acc} (h : ListAbsent d t bound k) :
    parseList d t bound k loop = Acc.empty := by
  rw [parseList, tableEntry_of_inside h.1, if_pos h.2]

theorem parseList_of_outside {loop : Nat → Nat → Acc → Acc} (h : ListOutside d t bound k) :
    parseList d t bound k loop = { Acc.empty with part := true } := by
  rcases Nat.lt_or_ge bound (t + 2 * k + 2) with hentry | hentry
  · rw [parseList, tableEntry, if_pos (fits_eq_false_iff.mpr hentry)]
  · obtain ⟨hne, hcount⟩ := h.resolve_left (Nat.not_lt.mpr hentry)
    rw [parseList, tableEntry_of_inside hentry, if_neg hne]
    exact if_pos (fits_eq_false_iff.mpr hcount)

/-- A list that begins inside the bound is its loop, run from behind the count byte. -/
theorem parseList_of_listAt {loop : Nat → Nat → Acc → Acc} {p : Nat} {body : List Byte}
    (h : ListAt d t bound k p body) :
    parseList d t bound k loop = loop (byteAt d p).toNat (p + 1) Acc.empty := by
  obtain ⟨hentry, hne, rfl, hbody, -⟩ := h
  rw [parseList, tableEntry_of_inside hentry, if_neg hne]
  exact if_neg (by rw [fits_eq_false_iff]; omega)

end

/-- Settles O35: one lemma per clause of rule R211. -/
theorem descriptorHeaderChecks : Obligations.DescriptorHeaderChecks := by
  unfold Obligations.DescriptorHeaderChecks
  intro c d
  exact ⟨dscParse_of_short, dscParse_of_long_length, dscParse_of_bad_table,
    fun hmin hle hlen => ⟨_, _, _, _, dscParse_of_header ⟨rfl, rfl, hmin, hle, hlen⟩⟩⟩

end Sys2Proof.Machine
end

section
/-! The descriptor parser reads below its bound only (rule R214): bytes behind the bound change none of its reads. -/

namespace Sys2Proof.Machine

/-- The two length fields lie inside the minimal header, a name's length field is as wide as what is read of it. -/
theorem dsc_layout_of_wf {c : Cfg} (hwf : c.wf = true) :
    c.dsc.hlenOff + 2 ≤ c.dsc.hdrMin ∧ c.dsc.dlenOff + 2 ≤ c.dsc.hdrMin ∧ c.dsc.strlenW = 2 := by
  simp only [Cfg.wf, Cfg.layoutsOk, Bool.and_eq_true, decide_eq_true_eq, beq_iff_eq] at hwf
  tauto

variable {c : Cfg} {d : List Byte} {bound : Nat}

theorem byteAt_append {p : Nat} (h : p < d.length) (tail : List Byte) : byteAt (d ++ tail) p = byteAt d p :=
  List.getD_append d tail 0 p h

theorem le16_append {p : Nat} (h : p + 2 ≤ d.length) (tail : List Byte) : le16 (d ++ tail) p = le16 d p := by
  rw [le16, le16, byteAt_append (by omega), byteAt_append (by omega)]

theorem slice_append {p n : Nat} (h : p + n ≤ d.length) (tail : List Byte) : slice (d ++ tail) p n = slice d p n := by
  rw [slice, slice, List.drop_append_of_le_length (by omega),
    List.take_append_of_le_length (by rw [List.length_drop]; omega)]

theorem tableEntry_append (hb : bound ≤ d.length) (tail : List Byte) (t k : Nat) :
    tableEntry (d ++ tail) t bound k = tableEntry d t bound k := by
  rcases Nat.lt_or_ge bound (t + 2 * k + 2) with hout | hin
  · rw [tableEntry, tableEntry, if_pos (fits_eq_false_iff.mpr hout), if_pos (fits_eq_false_iff.mpr hout)]
  · rw [tableEntry_of_inside hin, tableEntry_of_inside hin, le16_append (by omega)]

theorem guidLoop_append (hb : bound ≤ d.length) (tail : List Byte) (count p : Nat) (a : Acc) :
    guidLoop c (d ++ tail) bound count p a = guidLoop c d bound count p a := by
  induction count generalizing p a with
  | zero => rfl
  | succ count ih =>
    unfold guidLoop
    split
    · rfl
    · next hfit =>
      rw [Bool.not_eq_false, fits_eq_true_iff] at hfit
      rw [slice_append (by omega), ih]

theorem nameLoop_append (hw : c.dsc.strlenW = 2) (hb : bound ≤ d.length) (tail : List Byte) (count p : Nat) (a : Acc) :
    nameLoop c (d ++ tail) bound count p a = nameLoop c d bound count p a := by
  induction count generalizing p a with
  | zero => rfl
  | succ count ih =>
    unfold nameLoop
    split
    · rfl
    · next hfield =>
      rw [Bool.not_eq_false, fits_eq_true_iff, hw] at hfield
      rw [le16_append (by omega)]
      dsimp only
      split
      · rfl
      · next hname =>
        rw [Bool.not_eq_false, fits_eq_true_iff] at hname
        rw [slice_append (by omega), ih]

/-- A list is read below the bound if its loop is. -/
theorem parseList_append {loop loop' : Nat → Nat → Acc → Acc} (hb : bound ≤ d.length) (tail : List Byte) (t k : Nat)
    (hloop : ∀ count p a, loop count p a = loop' count p a) :
    parseList (d ++ tail) t bound k loop = parseList d t bound k loop' := by
  unfold parseList
  rw [tableEntry_append hb]
  split
  · rfl
  · rfl
  · split
    · rfl
    · next hcount =>
      rw [Bool.not_eq_false, fits_eq_true_iff] at hcount
      rw [byteAt_append (by omega), hloop]

/-- Bytes behind the declared length leave the parse as it is, with a header that passes and with one that does not. -/
theorem dscParse_append (hwf : c.wf = true) (hmin : c.dsc.hdrMin ≤ d.length)
    (hlen : (le16 d c.dsc.dlenOff).toNat = d.length) (tail : List Byte) : dscParse c (d ++ tail) = dscParse c d := by
  obtain ⟨hhlen, hdlen, hw⟩ := dsc_layout_of_wf hwf
  have ht : le16 (d ++ tail) c.dsc.hlenOff = le16 d c.dsc.hlenOff := le16_append (by omega) tail
  have hbound : le16 (d ++ tail) c.dsc.dlenOff = le16 d c.dsc.dlenOff := le16_append (by omega) tail
  have hlong : d.length ≤ (d ++ tail).length := by simp
  by_cases hbad : (le16 d c.dsc.hlenOff).toNat < c.dsc.hdrMin
      ∨ (le16 d c.dsc.dlenOff).toNat < (le16 d c.dsc.hlenOff).toNat
  · rw [dscParse_of_bad_table hmin hlen.le hbad,
      dscParse_of_bad_table (hmin.trans hlong) (by rw [hbound]; omega) (by rwa [ht, hbound]), ht]
  · rw [dscParse_of_header ⟨rfl, rfl, by omega, by omega, hlen.le⟩,
      dscParse_of_header ⟨rfl, rfl, by rw [ht]; omega, by rw [ht, hbound]; omega, by rw [hbound]; omega⟩, ht, hbound,
      parseList_append hlen.le tail _ _ (guidLoop_append hlen.le tail),
      parseList_append hlen.le tail _ _ (nameLoop_append hw hlen.le tail)]

/-- Settles O36: with either tail the parse is that of the bytes below the declared length. -/
theorem descriptorNeverReadsPastItsLength : Obligations.DescriptorNeverReadsPastItsLength := by
  unfold Obligations.DescriptorNeverReadsPastItsLength
  intro c d tail tail' hwf hmin hlen
  rw [dscParse_append hwf hmin hlen tail, dscParse_append hwf hmin hlen tail']

end Sys2Proof.Machine
end

section
/-! A list of the descriptor read in order (rules R215, R217, R218, R221). Both lists run the same loop over differently
encoded elements: the loop is followed once, over what it asks of one element. -/

namespace Sys2Proof.Machine

/-! ## The working values after a sequence of elements -/

/-- The working values of a set of capacity `max` that was offered `xs` in order; `long` when one of them was cut. -/
def Acc.offered (max : Nat) (long : Bool) (xs : List (List Byte)) : Acc :=
  { items := xs.eraseDups.take max
    part := long || decide (max < xs.eraseDups.length)
    cap := long || decide (max < xs.eraseDups.length) }

theorem Acc.offered_nil (max : Nat) : Acc.offered max false [] = Acc.empty := by simp [Acc.offered, Acc.empty]

theorem Acc.cut_offered (max : Nat) (long b : Bool) (xs : List (List Byte)) :
    (Acc.offered max long xs).cut b = Acc.offered max (long || b) xs := by
  cases b <;> simp [Acc.cut, Acc.offered]

theorem eraseDups_concat_of_mem {xs : List (List Byte)} {x : List Byte} (h : x ∈ xs) :
    (xs ++ [x]).eraseDups = xs.eraseDups := by
  simp [List.eraseDups_append, List.cons_removeAll, h]

theorem eraseDups_concat_of_not_mem {xs : List (List Byte)} {x : List Byte} (h : x ∉ xs) :
    (xs ++ [x]).eraseDups = xs.eraseDups ++ [x] := by
  simp [List.eraseDups_append, List.eraseDups_cons, List.cons_removeAll, h]

/-- Accepting an element offers it: a repetition is kept, or was dropped when the set was full already; a new element is
kept if there is room. -/
theorem Acc.add_offered (max : Nat) (long : Bool) (xs : List (List Byte)) (x : List Byte) :
    (Acc.offered max long xs).add max x = Acc.offered max long (xs ++ [x]) := by
  rcases Nat.lt_or_ge max xs.eraseDups.length with hover | hroom
  · have hover' : max < (xs ++ [x]).eraseDups.length := by
      rw [List.eraseDups_append, List.length_append]
      omega
    have htake : (xs ++ [x]).eraseDups.take max = xs.eraseDups.take max := by
      rw [List.eraseDups_append, List.take_append_of_le_length hover.le]
    have hfull : (xs.eraseDups.take max).length = max := List.length_take_of_le hover.le
    simp [Acc.add, Acc.offered, hover, hover', htake, hfull]
  · have hall : xs.eraseDups.take max = xs.eraseDups := List.take_of_length_le hroom
    by_cases hx : x ∈ xs
    · simp [Acc.add, Acc.offered, hall, hx, eraseDups_concat_of_mem hx]
    · rcases hroom.eq_or_lt with hfull | hfree
      · simp [Acc.add, Acc.offered, hx, eraseDups_concat_of_not_mem hx, ← hfull]
      · have hall' : (xs.eraseDups ++ [x]).take max = xs.eraseDups ++ [x] :=
          List.take_of_length_le (by simpa using hfree)
        simp [Acc.add, Acc.offered, hall, hall', hx, eraseDups_concat_of_not_mem hx, hfree.ne, Nat.not_lt.mpr hroom,
          Nat.not_le.mpr hfree]

/-! ## Bytes at an offset -/

/-- The bytes `xs ++ ys` stand at `p` when `xs` does, and `ys` behind it. -/
theorem slice_eq_append_iff {d : List Byte} {p : Nat} {xs ys : List Byte} :
    slice d p (xs ++ ys).length = xs ++ ys
      ↔ slice d p xs.length = xs ∧ slice d (p + xs.length) ys.length = ys := by
  have hsplit : slice d p (xs ++ ys).length = slice d p xs.length ++ slice d (p + xs.length) ys.length := by
    rw [slice, List.length_append, List.take_add, List.drop_drop, slice, slice]
  constructor
  · intro h
    have hfront : slice d p xs.length = xs := by
      simpa [slice, List.take_take] using congrArg (List.take xs.length) h
    refine ⟨hfront, List.append_cancel_left (as := xs) ?_⟩
    rw [← h, hsplit, hfront]
  · rintro ⟨hfront, hback⟩
    rw [hsplit, hfront, hback]

theorem byteAt_of_slice {d : List Byte} {p : Nat} {x : Byte} {xs : List Byte}
    (h : slice d p (x :: xs).length = x :: xs) : byteAt d p = x := by
  have hhead : d[p]? = some x := by simpa [slice, List.head?_take] using congrArg List.head? h
  rw [byteAt, List.getD_eq_getElem?_getD, hhead, Option.getD_some]

theorem le16_toNat (d : List Byte) (p : Nat) :
    (le16 d p).toNat = 256 * (byteAt d (p + 1)).toNat + (byteAt d p).toNat := by
  rw [le16, BitVec.toNat_append, ← Nat.shiftLeft_add_eq_or_of_lt (byteAt d p).isLt, Nat.shiftLeft_eq]
  ring

/-! ## One loop, followed over its elements -/

section
variable {α : Type} {d : List Byte} {t bound k max : Nat} {loop : Nat → Nat → Acc → Acc}

/-- The loop passes element `x`, whose bytes are `enc x`, and accepts `kept x` of it, cut or not. -/
def PassesElement (d : List Byte) (bound max : Nat) (loop : Nat → Nat → Acc → Acc) (enc : α → List Byte)
    (long : α → Bool) (kept : α → List Byte) (x : α) : Prop :=
  ∀ n p a, p + (enc x).length ≤ bound → slice d p (enc x).length = enc x →
    loop (n + 1) p a = loop n (p + (enc x).length) ((a.cut (long x)).add max (kept x))

variable {enc : α → List Byte} {long : α → Bool} {kept : α → List Byte} {xs : List α}

/-- The loop over elements that stand one behind the other, `n` turns before its end. -/
theorem loop_passes (hpass : ∀ x ∈ xs, PassesElement d bound max loop enc long kept x) (n p : Nat) (cut : Bool)
    (seen : List (List Byte)) (hfit : p + (xs.map enc).flatten.length ≤ bound)
    (hbytes : slice d p (xs.map enc).flatten.length = (xs.map enc).flatten) :
    loop (n + xs.length) p (Acc.offered max cut seen)
      = loop n (p + (xs.map enc).flatten.length) (Acc.offered max (cut || xs.any long) (seen ++ xs.map kept)) := by
  induction xs generalizing p cut seen with
  | nil => simp
  | cons x xs ih =>
    simp only [List.map_cons, List.flatten_cons] at hfit hbytes ⊢
    rw [slice_eq_append_iff] at hbytes
    rw [List.length_append] at hfit
    rw [List.length_cons, ← Nat.add_assoc, hpass x List.mem_cons_self _ _ _ (by omega) hbytes.1, Acc.cut_offered,
      Acc.add_offered, ih (fun y hy => hpass y (List.mem_cons_of_mem x hy)) _ _ _ (by omega) hbytes.2]
    simp [Nat.add_assoc, Bool.or_assoc]

/-- A list read whole, or up to an element that the loop stops at. -/
theorem parseList_reads {p : Nat} {cut trunc : Bool} (hpass : ∀ x ∈ xs, PassesElement d bound max loop enc long kept x)
    (hend : ∀ p a, loop 0 p a = a) (hat : ListAt d t bound k p (xs.map enc).flatten)
    (hcount : xs.length = (byteAt d p).toNat ∨ (xs.length < (byteAt d p).toNat
      ∧ ∀ n a, loop (n + 1) (p + 1 + (xs.map enc).flatten.length) a = { a with part := true }))
    (hcut : cut = decide (xs.length < (byteAt d p).toNat))
    (htrunc : trunc = (xs.any long || decide (max < (xs.map kept).eraseDups.length))) :
    parseList d t bound k loop
      = { items := (xs.map kept).eraseDups.take max, part := cut || trunc, cap := trunc } := by
  have hrun : ∀ n, loop (n + xs.length) (p + 1) Acc.empty
      = loop n (p + 1 + (xs.map enc).flatten.length) (Acc.offered max (xs.any long) (xs.map kept)) := by
    obtain ⟨-, -, -, hfit, hbytes⟩ := hat
    intro n
    simpa [Acc.offered_nil] using loop_passes hpass n (p + 1) false [] hfit hbytes
  rw [parseList_of_listAt hat, hcut, htrunc]
  rcases hcount with hwhole | ⟨hfewer, hstop⟩
  · have hturns : (byteAt d p).toNat = 0 + xs.length := by omega
    rw [hturns, hrun, hend]
    simp [Acc.offered]
  · obtain ⟨n, hturns⟩ : ∃ n, (byteAt d p).toNat = n + 1 + xs.length := ⟨(byteAt d p).toNat - xs.length - 1, by omega⟩
    rw [hturns, hrun, hstop, decide_eq_true (by omega), Bool.true_or]
    rfl

end

/-! ## The elements of the two lists -/

section
variable {c : Cfg} {d : List Byte} {bound : Nat}

theorem guidLoop_passes {g : List Byte} (hg : g.length = c.dsc.guidBytes) :
    PassesElement d bound c.dsc.maxGuids (guidLoop c d bound) id (fun _ => false) id g := by
  intro n p a hfit hbytes
  rw [id_eq, hg] at hfit hbytes
  rw [guidLoop, if_neg (by rw [fits_eq_false_iff]; omega), hbytes, id_eq, hg]
  rfl

theorem guidLoop_stops {n p : Nat} {a : Acc} (h : bound < p + c.dsc.guidBytes) :
    guidLoop c d bound (n + 1) p a = { a with part := true } := if_pos (fits_eq_false_iff.mpr h)

@[simp] theorem nameBytes_length (name : List Byte) : (nameBytes name).length = 2 + name.length := by
  rw [nameBytes, List.length_cons, List.length_cons]
  omega

/-- A name that stands at `p`: its length field holds its length, and its bytes follow the field. -/
theorem nameBytes_read {name : List Byte} {p : Nat} (hlen : name.length < 65536)
    (h : slice d p (nameBytes name).length = nameBytes name) :
    (le16 d p).toNat = name.length ∧ slice d (p + 2) name.length = name := by
  obtain ⟨hlow, hrest⟩ := slice_eq_append_iff (xs := [BitVec.ofNat 8 name.length]).mp h
  obtain ⟨hhigh, hname⟩ := slice_eq_append_iff (xs := [BitVec.ofNat 8 (name.length / 256)]).mp hrest
  refine ⟨?_, hname⟩
  have hhigh' : byteAt d (p + 1) = BitVec.ofNat 8 (name.length / 256) := byteAt_of_slice hhigh
  rw [le16_toNat, byteAt_of_slice hlow, hhigh', BitVec.toNat_ofNat, BitVec.toNat_ofNat]
  omega

theorem nameLoop_passes (hw : c.dsc.strlenW = 2) {name : List Byte} (hlen : name.length < 65536) :
    PassesElement d bound c.dsc.maxNames (nameLoop c d bound) nameBytes
      (fun name => decide (c.dsc.maxNameLen < name.length)) (fun name => name.take c.dsc.maxNameLen) name := by
  intro n p a hfit hbytes
  obtain ⟨hfield, hname⟩ := nameBytes_read hlen hbytes
  rw [nameBytes_length] at hfit
  have hkept : slice d (p + 2) (min name.length c.dsc.maxNameLen) = name.take c.dsc.maxNameLen := by
    rw [Nat.min_comm, slice, ← List.take_take]
    exact congrArg _ hname
  have hlong : min name.length c.dsc.maxNameLen < name.length ↔ c.dsc.maxNameLen < name.length := by omega
  rw [nameLoop, if_neg (by rw [fits_eq_false_iff]; omega)]
  dsimp only
  rw [hw, hfield, if_neg (by rw [fits_eq_false_iff]; omega), hkept, nameBytes_length, Nat.add_assoc]
  simp only [hlong]

/-- The loop stops at a name whose length field or whose bytes lie outside the bound. -/
theorem nameLoop_stops (hw : c.dsc.strlenW = 2) {n p : Nat} {a : Acc}
    (h : bound < p + 2 ∨ bound < p + 2 + (le16 d p).toNat) :
    nameLoop c d bound (n + 1) p a = { a with part := true } := by
  rw [nameLoop, hw]
  split
  · rfl
  · next hfield =>
    rw [fits_eq_false_iff] at hfield
    exact if_pos (fits_eq_false_iff.mpr (h.resolve_left hfield))

end

/-! ## What the parse answers -/

/-- Settles O38: the identifier list by its table entry, the other list absent or not known. -/
theorem identifierListReadInOrder : Obligations.IdentifierListReadInOrder := by
  unfold Obligations.IdentifierListReadInOrder
  intro c d t bound h
  rw [dscParse_of_header h]
  refine ⟨fun hout => ?_, fun habs => ?_, ?_⟩
  · rw [parseList_of_outside hout]
    exact ⟨⟨_, _, rfl⟩, fun hother => by rw [parseList_of_absent hother]; rfl⟩
  · rw [parseList_of_absent habs]
    exact ⟨⟨_, _, _, rfl⟩, fun hother => by rw [parseList_of_absent hother]; rfl⟩
  · intro p gs hgs hat hcount cut trunc hcut htrunc
    rw [← List.map_id gs] at hat htrunc
    have hlist := parseList_reads (fun g hg => guidLoop_passes (hgs g hg)) (fun _ _ => rfl) hat
      (hcount.imp_right (And.imp_right fun hstop n a => guidLoop_stops (by rwa [List.map_id]))) hcut
      (htrunc.trans (by simp))
    rw [hlist, List.map_id]
    refine ⟨⟨_, _, _, rfl, Bool.or_inl, Bool.or_inl⟩, fun hother => ?_⟩
    rw [parseList_of_absent hother]
    simp [Acc.empty]

/-- Settles O60: the class-name list by its table entry, the other list absent or not known. -/
theorem classNameListReadInOrder : Obligations.ClassNameListReadInOrder := by
  unfold Obligations.ClassNameListReadInOrder
  intro c d t bound hwf h
  obtain ⟨-, -, hw⟩ := dsc_layout_of_wf hwf
  rw [dscParse_of_header h]
  refine ⟨fun hout => ?_, fun habs => ?_, ?_⟩
  · rw [parseList_of_outside hout]
    exact ⟨⟨_, _, by rw [Bool.or_true]; rfl⟩, fun hother => by rw [parseList_of_absent hother]; rfl⟩
  · rw [parseList_of_absent habs]
    exact ⟨⟨_, _, _, rfl⟩, fun hother => by rw [parseList_of_absent hother]; rfl⟩
  · rintro p q ns kept hlen hat rfl hcount rfl cut trunc hcut htrunc
    have hlist := parseList_reads (fun name hname => nameLoop_passes hw (hlen name hname)) (fun _ _ => rfl) hat
      (hcount.imp_right (And.imp_right fun hstop n a => nameLoop_stops hw hstop)) hcut htrunc
    rw [hlist]
    refine ⟨⟨_, _, _, rfl, Bool.or_inr, Bool.or_inr⟩, fun hother => ?_⟩
    rw [parseList_of_absent hother]
    rfl

end Sys2Proof.Machine
end

section
/-! The fields of the report layouts (rules R244, R250 to R252, R260, R263, R270): the variants and bits of a report in the
words of its rule, and the d-pad latch case by case. -/

namespace Sys2Proof.Machine

/-! ## Guitar -/

theorem analogAxis_eq (am : AxisMode) (v : Byte) :
    analogAxis am v = if am = .full then axisFull v else axisHalf v := by
  cases am <;> rfl

theorem pickupAxis_eq (c : Cfg) (am : AxisMode) (pm : PickupMode) (v : Byte) :
    pickupAxis c am pm v = if pm = .plateau then pickupPlateau c v
      else if am = .full then axisFull v else axisHalf v := by
  cases pm
  · exact analogAxis_eq am v
  · rfl

theorem byteAt_set_same {d : List Byte} {a : Nat} (h : a < d.length) (v : Byte) : byteAt (d.set a v) a = v := by
  simp [byteAt, h]

theorem byteAt_set_of_ne {a b : Nat} (h : a ≠ b) (d : List Byte) (v : Byte) : byteAt (d.set a v) b = byteAt d b := by
  simp [byteAt, h]

/-- What the fret flags are read from, in a report with fret bytes `u` and `l` (rule R251). -/
theorem fretBytes_or {c : Cfg} {d : List Byte} (hne : c.gtr.upperOff ≠ c.gtr.lowerOff)
    (hupper : c.gtr.upperOff < d.length) (hlower : c.gtr.lowerOff < d.length) (u l : Byte) :
    byteAt ((d.set c.gtr.upperOff u).set c.gtr.lowerOff l) c.gtr.upperOff
      ||| byteAt ((d.set c.gtr.upperOff u).set c.gtr.lowerOff l) c.gtr.lowerOff = u ||| l := by
  rw [byteAt_set_of_ne hne.symm, byteAt_set_same hupper, byteAt_set_same (by rwa [List.length_set])]

/-- A Guitar's five fret flags are bits of the OR of its two fret bytes, and of nothing else (rule R250). -/
theorem guitarOut_frets_congr {c : Cfg} (am : AxisMode) (pm : PickupMode) {d d' : List Byte}
    (h : byteAt d c.gtr.upperOff ||| byteAt d c.gtr.lowerOff = byteAt d' c.gtr.upperOff ||| byteAt d' c.gtr.lowerOff) :
    let a := guitarOut c am pm d
    let b := guitarOut c am pm d'
    a.green = b.green ∧ a.red = b.red ∧ a.yellow = b.yellow ∧ a.blue = b.blue ∧ a.orange = b.orange := by
  simp [guitarOut, h]

/-! ## Drums -/

theorem and_yellowBit_ne_zero : ∀ l : BitVec 2, decide (l &&& yellowBit ≠ 0#2) = l.getLsbD 0 := by decide

theorem and_blueBit_ne_zero : ∀ l : BitVec 2, decide (l &&& blueBit ≠ 0#2) = l.getLsbD 1 := by decide

theorem yellow_or_blue_eq_append : ∀ y b : Bool,
    (if y then yellowBit else 0#2) ||| (if b then blueBit else 0#2) = BitVec.ofBool b ++ BitVec.ofBool y := by
  decide

/-- The mask is one bit for each of the two cymbals, yellow the low one (rules R31, R263). -/
theorem cymbalMask_eq (cym : Four (BitVec 4)) :
    cymbalMask cym = BitVec.ofBool (decide (cym.blue ≠ 0)) ++ BitVec.ofBool (decide (cym.yellow ≠ 0)) := by
  rw [cymbalMask, ← yellow_or_blue_eq_append]
  simp only [decide_eq_true_eq]
  rfl

theorem dpadLatch_of_same_mask (m lat : BitVec 2) : dpadLatch m m lat = lat := if_pos rfl

section
variable {m prev lat : BitVec 2}

theorem dpadLatch_of_empty_mask (hnew : m ≠ prev) (hm : m = 0#2) : dpadLatch m prev lat = 0#2 := by
  rw [dpadLatch, if_neg hnew, if_pos hm]

theorem dpadLatch_of_kept (hnew : m ≠ prev) (hm : m ≠ 0#2) (hkept : lat &&& m ≠ 0#2) :
    dpadLatch m prev lat = lat &&& m := by
  rw [dpadLatch, if_neg hnew, if_neg hm]
  exact if_neg hkept

/-- A latch that the new mask empties takes yellow before blue (rule R263). -/
theorem dpadLatch_of_released (hnew : m ≠ prev) (hm : m ≠ 0#2) (hgone : lat &&& m = 0#2) :
    dpadLatch m prev lat = if m.getLsbD 0 = true then yellowBit else blueBit := by
  rw [dpadLatch, if_neg hnew, if_neg hm, ← and_yellowBit_ne_zero]
  simp only [decide_eq_true_eq]
  exact if_pos hgone

end

/-! ## SixFret -/

/-- A seven-bit excess spread by replication: the three shifted copies share no bit (rule R270). -/
theorem spread7_toNat {x : Byte} (h : x.toNat < 128) :
    (spread7 x).toNat = 256 * x.toNat + 2 * x.toNat + x.toNat / 64 := by
  have hlow : 2 * x.toNat ||| x.toNat / 64 = 2 * x.toNat + x.toNat / 64 :=
    (Nat.two_pow_add_eq_or_of_lt (i := 1) (by omega) x.toNat).symm
  have hhigh : 256 * x.toNat ||| (2 * x.toNat + x.toNat / 64) = 256 * x.toNat + (2 * x.toNat + x.toNat / 64) :=
    (Nat.two_pow_add_eq_or_of_lt (i := 8) (by omega) x.toNat).symm
  have h8 : x.toNat <<< 8 % 2 ^ 16 = 256 * x.toNat := by rw [Nat.shiftLeft_eq]; omega
  have h1 : x.toNat <<< 1 % 2 ^ 16 = 2 * x.toNat := by rw [Nat.shiftLeft_eq]; omega
  have h6 : x.toNat >>> 6 = x.toNat / 64 := Nat.shiftRight_eq_div_pow _ _
  simp only [spread7, BitVec.toNat_or, BitVec.toNat_shiftLeft, BitVec.toNat_ushiftRight, BitVec.toNat_setWidth]
  rw [Nat.mod_eq_of_lt (show x.toNat < 2 ^ 16 by omega), h8, h1, h6, Nat.or_assoc, hlow, hhigh, Nat.add_assoc]

/-- The whammy over a rest value of 0x80: the excess, zero below it, spread (rule R270). -/
theorem ghlWhammy_toNat {c : Cfg} (hrest : c.ghl.whammyRest = 0x80#8) (w : Byte) :
    (ghlWhammy c w).toNat = 256 * (w.toNat - 0x80) + 2 * (w.toNat - 0x80) + (w.toNat - 0x80) / 64 := by
  have hw := w.isLt
  have hexcess : (if 0x80#8 ≤ w then w - 0x80#8 else 0).toNat = w.toNat - 0x80 := by
    split
    · next hle => exact BitVec.toNat_sub_of_le hle
    · next hlt =>
      have : w.toNat < 0x80 := Nat.lt_of_not_le hlt
      exact (Nat.sub_eq_zero_of_le (by omega)).symm
  rw [ghlWhammy, if_pos hrest, hrest, spread7_toNat (by omega), hexcess]

/-- Settles O42: both reports read their fret flags from the same byte. -/
theorem fretBytesAreMergedByOr : Obligations.FretBytesAreMergedByOr := by
  unfold Obligations.FretBytesAreMergedByOr
  intro c am pm d u l u' l' hne hupper hlower hor
  refine guitarOut_frets_congr am pm ?_
  rw [fretBytes_or hne hupper hlower, fretBytes_or hne hupper hlower, hor]

/-- Settles O44, by the branches of the latch; the document's sequence is evaluated. -/
theorem dpadLatchRule : Obligations.DpadLatchRule := by
  unfold Obligations.DpadLatchRule
  refine ⟨fun m prev lat => ⟨?same, dpadLatch_of_empty_mask, dpadLatch_of_kept, ?yellow, ?blue, latchOk_dpadLatch m⟩,
    by decide, by decide, by decide, by decide, by decide⟩
  case same =>
    rintro rfl
    exact dpadLatch_of_same_mask m lat
  case yellow =>
    intro hnew hm hgone hyellow
    exact (dpadLatch_of_released hnew hm hgone).trans (if_pos hyellow)
  case blue =>
    intro hnew hm hgone hyellow
    exact (dpadLatch_of_released hnew hm hgone).trans (if_neg (Bool.eq_false_iff.mp hyellow))

end Sys2Proof.Machine
end

section
/-! The level-3 rows of the report extractors (rules R241, R243, R250 to R290): a row decodes its report and commits it, or
ignores the message; the Fallback runs one of them. -/

namespace Sys2Proof.Machine

/-- The state in which slot `n`, being `x` but for its `out`, has reported `o` (rule R243): one submit, `OK_REPORT`. -/
def reported (n : Nat) (x : Slot) (o : Out) (s : State) : State :=
  endedWith (s.slots.set n { x with out := o }) 0 [.sinkSubmit n none o] .okReport (info32 (kindCode o.tag)) s

section
variable {n : Nat} {s : State}

theorem emit_eq_partway (e : Event) (s : State) : emit e s = partway s.slots 0 [e] s := by
  simp [emit, partway, passedOn]

/-- The end of a row that writes slot `n` and submits: one write, one sink operation, the result (rules R243, R290). -/
theorem finish_submit (n : Nat) (x : Slot) (o : Out) (c : Code) (v : Nat) (s : State) :
    finish c v (emit (.sinkSubmit n none o) (s.setSlot n x))
      = endedWith (s.slots.set n x) 0 [.sinkSubmit n none o] c (info32 v) s := by
  rw [emit_eq_partway, setSlot_eq_partway, partway_partway, finish_partway]
  rfl

theorem commit_eq_reported (h : Selected n s) (o : Out) :
    commit o s = reported n (s.slot n) { o with guide := (s.slot n).out.guide } s :=
  (commit_eq h o).trans (finish_submit ..)

/-- A Drums report commits on the slot that holds the new mask and latch (rule R263). -/
theorem decodeDrums_eq_reported (h : Selected n s) {d : List Byte} {m lat : BitVec 2}
    (hm : m = cymbalMask (drumCymbals s.cfg d)) (hlat : lat = dpadLatch m (s.slot n).prevMask (s.slot n).latched) :
    decodeDrums d s = reported n { s.slot n with prevMask := m, latched := lat }
      { drumsOut s.cfg lat d with guide := (s.slot n).out.guide } s := by
  obtain ⟨hsel, hslot⟩ := h.partway_set { s.slot n with prevMask := m, latched := lat } 0 []
  subst hlat hm
  rw [decodeDrums, setCur_of_sel h.1, setSlot_eq_partway, cur_of_sel h.1, commit_eq_reported hsel, hslot, reported,
    endedWith_partway, partway_slots, List.set_set]
  rfl

/-! ## The rows -/

theorem ignoreMessage_eq (s : State) : ignoreMessage s = endedWith s.slots 0 [] .okIgnored 0 s :=
  finish_eq_endedWith .okIgnored 0 s

theorem exec_inputGtr {m : Message} (hlen : m.data.length = s.cfg.gtr.len) :
    exec (.inputGtr m) s = .next (decodeGuitar s.cur.mapper.axisMode s.cur.mapper.pickupMode m.data s) :=
  congrArg Host.Outcome.next (if_pos hlen)

theorem exec_inputDrm {m : Message} (hlen : m.data.length = s.cfg.drm.len) :
    exec (.inputDrm m) s = .next (decodeDrums m.data s) :=
  congrArg Host.Outcome.next (if_pos hlen)

theorem exec_ghlInputGhl {m : Message} (hlen : m.data.length = s.cfg.ghl.len) :
    exec (.ghlInputGhl m) s = .next (decodeSixFret m.data s) :=
  congrArg Host.Outcome.next (if_pos hlen)

theorem exec_inputPad {m : Message} (hunit : s.cfg.hasGamepad = true) (hlen : m.data.length = s.cfg.pad.len) :
    exec (.inputPad m) s = .next (decodeGamepad m.data s) :=
  congrArg Host.Outcome.next (if_pos ⟨hunit, hlen⟩)

/-- The Fallback runs the decoder of the layout found (rule R280). -/
theorem exec_inputFb_of_found {m : Message} {k : Kind} (hfound : sniffLayout s.cfg m = some k) :
    exec (.inputFb m) s = .next (runLayout k m.data s) := by
  simp only [exec, execInputFb, hfound]

theorem exec_inputFb_of_none {m : Message} (hnone : sniffLayout s.cfg m = none) :
    exec (.inputFb m) s = .next (ignoreMessage s) := by
  simp only [exec, execInputFb, hnone]

/-- A layout that the Fallback finds has the message's length. -/
theorem reportLen_of_sniffLayout {c : Cfg} {m : Message} {k : Kind} (h : sniffLayout c m = some k) :
    c.reportLen k = some m.data.length := by
  have hmatch := List.find?_some h
  rw [Bool.and_eq_true, beq_iff_eq, beq_iff_eq] at hmatch
  exact hmatch.2

/-- A guide key event of a kind that takes it changes the guide bit of the last report (rule R290). -/
theorem exec_keystrokeGuide_taken (h : Selected n s) {m : Message} (hkind : (s.slot n).mapper.kind ∈ s.cfg.guideEn)
    (hlen : m.data.length = s.cfg.key.len) (hkey : byteAt m.data s.cfg.key.codeOff = s.cfg.key.guide) {g : Bool}
    {o : Out} (hg : g = (byteAt m.data s.cfg.key.flagsOff).getLsbD s.cfg.key.pressedBit)
    (ho : o = { (s.slot n).out with guide := g }) :
    exec (.keystrokeGuide m) s = .next (endedWith (s.slots.set n { s.slot n with out := o }) 0 [.sinkSubmit n none o]
      .okKey (info32 g.toNat) s) := by
  rw [← cur_of_sel h.1] at hkind ho
  rw [← finish_submit, ← setCur_of_sel h.1, ← cur_of_sel h.1, ← selNo_of_sel h.1]
  subst ho hg
  have henabled : ¬(s.cfg.guideEn.contains s.cur.mapper.kind = false ∨ m.data.length ≠ s.cfg.key.len) := by
    simp [hkind, hlen]
  exact congrArg Host.Outcome.next ((if_neg henabled).trans (if_neg (not_not_intro hkey)))

theorem exec_keystrokeGuide_ignored (h : Selected n s) {m : Message}
    (hnot : (s.slot n).mapper.kind ∉ s.cfg.guideEn ∨ m.data.length ≠ s.cfg.key.len
      ∨ byteAt m.data s.cfg.key.codeOff ≠ s.cfg.key.guide) :
    exec (.keystrokeGuide m) s = .next (ignoreMessage s) := by
  rw [← cur_of_sel h.1, ← List.contains_iff_mem, Bool.not_eq_true, ← or_assoc] at hnot
  refine congrArg Host.Outcome.next ?_
  by_cases hfirst : s.cfg.guideEn.contains s.cur.mapper.kind = false ∨ m.data.length ≠ s.cfg.key.len
  · exact if_pos hfirst
  · exact (if_neg hfirst).trans (if_pos (hnot.resolve_left hfirst))

end

/-- Settles O41: the row commits the Guitar layout with the mapper's variants. -/
theorem guitarReportDecoded : Obligations.GuitarReportDecoded := by
  unfold Obligations.GuitarReportDecoded
  intro n s m h hlen
  rw [exec_inputGtr hlen, decodeGuitar, commit_eq_reported h, cur_of_sel h.1]
  refine ⟨_, ?_, rfl⟩
  simp [guitarOut, commonButtons, bit, analogAxis_eq, pickupAxis_eq]

/-- Settles O43: the row commits the Drums layout on the slot with the new mask and latch. -/
theorem drumsReportDecoded : Obligations.DrumsReportDecoded := by
  unfold Obligations.DrumsReportDecoded
  rintro n s m h hlen b pads cyms pad cym mask lat rfl rfl rfl rfl rfl hmask hlat
  rw [exec_inputDrm hlen, decodeDrums_eq_reported h (hmask.trans (cymbalMask_eq _).symm) hlat]
  refine ⟨_, ?_, rfl⟩
  simp only [drumsOut, and_yellowBit_ne_zero, and_blueBit_ne_zero]
  rfl

/-- Settles O46: the row commits the SixFret layout. -/
theorem sixFretReportDecoded : Obligations.SixFretReportDecoded := by
  unfold Obligations.SixFretReportDecoded
  rintro n s m h hlen b f st w rfl rfl rfl rfl
  rw [exec_ghlInputGhl hlen, decodeSixFret, commit_eq_reported h]
  exact ⟨_, ghlWhammy s.cfg _, rfl, fun hrest => ghlWhammy_toNat hrest _, rfl⟩

/-- Settles O47: the row commits the Gamepad layout. -/
theorem gamepadReportDecoded : Obligations.GamepadReportDecoded := by
  unfold Obligations.GamepadReportDecoded
  rintro n s m h hunit hlen b rfl
  rw [exec_inputPad hunit hlen, decodeGamepad, commit_eq_reported h]
  exact ⟨_, rfl, rfl⟩

/-- Settles O48: the layout found has the message's length, so the row of that layout decodes the message alike. -/
theorem fallbackSniffsByLength : Obligations.FallbackSniffsByLength := by
  unfold Obligations.FallbackSniffsByLength
  refine ⟨fun c => ⟨rfl, rfl, rfl, rfl, rfl, rfl, rfl, rfl⟩, ?_⟩
  rintro n s m h found rfl
  refine ⟨fun hfound => ?guitar, fun hfound => ?drums, fun hfound => ?sixFret, fun hfound hunit => ?gamepad,
    fun hnone => ?none⟩
  case guitar =>
    rw [exec_inputFb_of_found hfound, runLayout, decodeGuitar, commit_eq_reported h]
    exact ⟨_, rfl, rfl⟩
  case drums =>
    have hlen := Option.some.inj (reportLen_of_sniffLayout hfound)
    rw [exec_inputFb_of_found hfound, exec_inputDrm hlen.symm, runLayout]
  case sixFret =>
    have hlen := Option.some.inj (reportLen_of_sniffLayout hfound)
    rw [exec_inputFb_of_found hfound, exec_ghlInputGhl hlen.symm, runLayout]
  case gamepad =>
    have hlen := Option.some.inj (reportLen_of_sniffLayout hfound)
    rw [exec_inputFb_of_found hfound, exec_inputPad hunit hlen.symm, runLayout]
  case none => rw [exec_inputFb_of_none hnone, ignoreMessage_eq]

/-- Settles O49: the event is taken, or one of its three tests fails. -/
theorem guideKeyChangesGuideOnly : Obligations.GuideKeyChangesGuideOnly := by
  unfold Obligations.GuideKeyChangesGuideOnly
  intro n s m h
  refine ⟨fun hkind hlen hkey => ⟨_, rfl, ?_⟩, fun hnot => ?_⟩
  · rw [exec_keystrokeGuide_taken h hkind hlen hkey rfl rfl]
    dsimp only
    cases (byteAt m.data s.cfg.key.flagsOff).getLsbD s.cfg.key.pressedBit <;> rfl
  · rw [exec_keystrokeGuide_ignored h hnot, ignoreMessage_eq]

/-- Settles O50: NOOP ignores its message, and so does each report row whose test fails. -/
theorem unrecognizedReportIgnored : Obligations.UnrecognizedReportIgnored := by
  unfold Obligations.UnrecognizedReportIgnored
  intro s m
  rw [← ignoreMessage_eq]
  refine ⟨rfl, fun hlen => congrArg _ (if_neg hlen), fun hlen => congrArg _ (if_neg hlen),
    fun hlen => congrArg _ (if_neg hlen), fun hnot => congrArg _ (if_neg ?_)⟩
  rintro ⟨hunit, hlen⟩
  exact hnot.elim (fun hother => hother hlen) (fun hnone => by simp [hunit] at hnone)

end Sys2Proof.Machine
end

section
/-! The level-3 rows of the legacy demultiplexer (rules R302 to R305): the checks that the three share, then one row for
the child of the user that the message names. -/

namespace Sys2Proof.Machine

/-- Slot `x` with `c` as child `u` (rule R38). -/
def Slot.withChild (x : Slot) (u : Nat) (c : Child) : Slot := { x with children := x.children.set u c }

/-- Of two writes of a child the second stays. -/
@[simp] theorem withChild_withChild (x : Slot) (u : Nat) (c d : Child) :
    (x.withChild u c).withChild u d = x.withChild u d := by
  simp [Slot.withChild]

theorem getElem?_withChild {x : Slot} {u : Nat} {c : Child} (hc : x.children[u]? = some c) (d : Child) :
    (x.withChild u d).children[u]? = some d := by
  obtain ⟨hu, -⟩ := List.getElem?_eq_some_iff.mp hc
  simp [Slot.withChild, hu]

/-- The message names user `u`, who exists: it passes the checks that the rows share (rule R302). -/
abbrev NamesUser (l : LgyCfg) (m : Message) (u : Nat) : Prop :=
  l.userOff < m.data.length ∧ u = (byteAt m.data l.userOff).toNat ∧ u < l.nUsers

section
variable {n u : Nat} {s : State} {m : Message} {l : LgyCfg}

/-! ## The shared checks -/

section
variable {k : LgyCfg → Nat → State}

theorem withUser_of_no_unit (hlgy : s.cfg.lgy = none) : withUser m s k = ignoreMessage s := by
  simp only [withUser, hlgy]

theorem withUser_of_unit (hlgy : s.cfg.lgy = some l) :
    withUser m s k = if m.data.length ≤ l.userOff then ignoreMessage s
      else if l.nUsers ≤ (byteAt m.data l.userOff).toNat then ignoreMessage (raiseEv .lgyUnknown s)
      else k l (byteAt m.data l.userOff).toNat := by
  simp only [withUser, hlgy, ge_iff_le]

theorem withUser_of_names (hlgy : s.cfg.lgy = some l) (hu : NamesUser l m u) : withUser m s k = k l u := by
  obtain ⟨hlong, rfl, hin⟩ := hu
  rw [withUser_of_unit hlgy, if_neg (Nat.not_le.mpr hlong), if_neg (Nat.not_le.mpr hin)]

end

/-- Each of the three rows is the shared checks, then what it does for a user in range. -/
theorem exec_eq_withUser {i : Instr} (hi : i = .lgyConnect m ∨ i = .lgyDisconnect m ∨ i = .lgyInput m) (s : State) :
    ∃ k, exec i s = .next (withUser m s k) := by
  rcases hi with rfl | rfl | rfl <;> exact ⟨_, rfl⟩

theorem finish_lgyUnknown (c : Code) (v : Nat) (s : State) :
    finish c v (raiseEv .lgyUnknown s) = endedWith s.slots 0x0080 [] c (info32 v) s := by
  rw [raiseEv_eq_partway, finish_partway]
  rfl

/-! ## Writing a child -/

variable {c : Child}

theorem setChild_eq_partway (h : Selected n s) (u : Nat) (d : Child) :
    s.setChild u d = partway (s.slots.set n ((s.slot n).withChild u d)) 0 [] s := by
  rw [State.setChild, setCur_of_sel h.1, cur_of_sel h.1, setSlot_eq_partway, Slot.withChild]

theorem disposeChild_eq_partway (h : Selected n s) (hc : (s.slot n).children[u]? = some c) :
    disposeChild u s = partway (s.slots.set n ((s.slot n).withChild u { c with kind := .none })) 0
      (if c.kind = .none then [] else [.sinkClose n (some u)]) s := by
  simp [disposeChild_eq h hc, Slot.withChild, partway, passedOn]

/-- To dispose an absent child is to do nothing (rule R304). -/
theorem disposeChild_of_absent (h : Selected n s) (hc : (s.slot n).children[u]? = some c) (hk : c.kind = .none) :
    disposeChild u s = s := by
  rw [← child_of_getElem? h.1 hc] at hk
  exact if_pos hk

/-! ## LGY.CONNECT -/

theorem subtypeKind_of_unknown {t : Byte} (hgtr : t ∉ l.subtypesGuitar) (hdrm : t ≠ l.subtypeDrums) :
    subtypeKind l t = none := by
  simp [subtypeKind, hgtr, hdrm]

theorem subtypeKind_of_known {t : Byte} {k : Kind} (hk : (k = .guitar ∧ t ∈ l.subtypesGuitar)
    ∨ (k = .drums ∧ t ∉ l.subtypesGuitar ∧ t = l.subtypeDrums)) : subtypeKind l t = some k := by
  rcases hk with ⟨rfl, hgtr⟩ | ⟨rfl, hnot, hdrm⟩
  · simp [subtypeKind, hgtr]
  · rw [hdrm] at hnot
    simp [subtypeKind, hdrm, hnot]

theorem exec_lgyConnect_short (hlgy : s.cfg.lgy = some l) (hu : NamesUser l m u)
    (hshort : m.data.length < l.connectMin) : exec (.lgyConnect m) s = .next (ignoreMessage s) :=
  congrArg Host.Outcome.next ((withUser_of_names hlgy hu).trans (if_pos hshort))

theorem exec_lgyConnect_unknown (hlgy : s.cfg.lgy = some l) (hu : NamesUser l m u)
    (hmin : l.connectMin ≤ m.data.length) (hkind : subtypeKind l (byteAt m.data l.subtypeOff) = none) :
    exec (.lgyConnect m) s = .next (finish .okLgy u (raiseEv .lgyUnknown s)) := by
  refine congrArg Host.Outcome.next ((withUser_of_names hlgy hu).trans ((if_neg (Nat.not_lt.mpr hmin)).trans ?_))
  simp only [hkind]

theorem exec_lgyConnect_known (hlgy : s.cfg.lgy = some l) (hu : NamesUser l m u)
    (hmin : l.connectMin ≤ m.data.length) {k : Kind} (hkind : subtypeKind l (byteAt m.data l.subtypeOff) = some k) :
    exec (.lgyConnect m) s = .next (connectChild u k s) := by
  refine congrArg Host.Outcome.next ((withUser_of_names hlgy hu).trans ((if_neg (Nat.not_lt.mpr hmin)).trans ?_))
  simp only [hkind]

/-- A child connected with a sink that opens: the old handle is closed if there is one, the new child stands
(rule R302). -/
theorem connectChild_of_open (h : Selected n s) (hc : (s.slot n).children[u]? = some c) (k : Kind)
    (ho : s.work.openOk = true) :
    connectChild u k s = endedWith
      (s.slots.set n ((s.slot n).withChild u { kind := k, prevMask := 0, latched := 0, out := Out.zero })) 0
      ((if c.kind = .none then [] else [.sinkClose n (some u)]) ++ [.sinkOpen n (some u) k]) .okLgy
      (info32 (u + 256 * kindCode k)) s := by
  obtain ⟨hsel, hslot⟩ := h.partway_set ((s.slot n).withChild u { c with kind := .none }) 0
    (if c.kind = .none then [] else [.sinkClose n (some u)])
  rw [connectChild, disposeChild_eq_partway h hc, if_neg (by simp [ho]), selNo_of_sel hsel.1, setChild_eq_partway hsel,
    hslot, withChild_withChild, partway_slots, List.set_set, emit_eq_partway, partway_partway, partway_partway,
    finish_partway, partway_slots, List.nil_append]
  rfl

/-- A child connected with a sink that refuses: the old handle is closed if there is one, no child stands
(rule R302). -/
theorem connectChild_of_refused (h : Selected n s) (hc : (s.slot n).children[u]? = some c) (k : Kind)
    (ho : s.work.openOk = false) :
    connectChild u k s = endedWith (s.slots.set n ((s.slot n).withChild u { c with kind := .none })) 0x0002
      (if c.kind = .none then [] else [.sinkClose n (some u)]) .okLgy (info32 u) s := by
  rw [connectChild, disposeChild_eq_partway h hc, if_pos (by simp [ho]), raiseEv_eq_partway, partway_partway,
    finish_partway, List.append_nil]
  rfl

/-! ## LGY.DISCONNECT -/

theorem exec_lgyDisconnect (hlgy : s.cfg.lgy = some l) (hu : NamesUser l m u) :
    exec (.lgyDisconnect m) s = .next (finish .okLgy u (disposeChild u s)) :=
  congrArg Host.Outcome.next (withUser_of_names hlgy hu)

/-! ## LGY.INPUT -/

/-- A report on a child (rules R243, R305): one write, one submit, the result. -/
theorem commitChild_eq_endedWith (h : Selected n s) (hc : (s.slot n).children[u]? = some c) {o o' : Out}
    (ho : o' = { o with guide := c.out.guide }) :
    commitChild u o s = endedWith (s.slots.set n ((s.slot n).withChild u { c with out := o' })) 0
      [.sinkSubmit n (some u) o'] .okReport (info32 (kindCode o.tag + 256 * u)) s := by
  subst ho
  rw [commitChild_eq h, child_of_getElem? h.1 hc, emit_eq_partway, setSlot_eq_partway, partway_partway, finish_partway]
  rfl

/-- A Drums report commits on the child that holds the new mask and latch (rules R263, R305). -/
theorem decodeChildDrums_eq_endedWith (h : Selected n s) (hc : (s.slot n).children[u]? = some c) {d : List Byte}
    {mask lat : BitVec 2} {o : Out} (hmask : mask = cymbalMask (drumCymbals s.cfg d))
    (hlat : lat = dpadLatch mask c.prevMask c.latched) (ho : o = { drumsOut s.cfg lat d with guide := c.out.guide }) :
    decodeChildDrums u d s = endedWith
      (s.slots.set n ((s.slot n).withChild u { c with prevMask := mask, latched := lat, out := o })) 0
      [.sinkSubmit n (some u) o] .okReport (info32 (2 + 256 * u)) s := by
  obtain ⟨hsel, hslot⟩ := h.partway_set ((s.slot n).withChild u { c with prevMask := mask, latched := lat }) 0 []
  have hchild := getElem?_withChild hc { c with prevMask := mask, latched := lat }
  rw [← hslot] at hchild
  rw [decodeChildDrums, child_of_getElem? h.1 hc, ← hmask, ← hlat, setChild_eq_partway h,
    commitChild_eq_endedWith hsel hchild ho, hslot, withChild_withChild, endedWith_partway, partway_slots, List.set_set]
  rfl

theorem exec_lgyInput_guitar (hlgy : s.cfg.lgy = some l) (hu : NamesUser l m u) (hk : (s.child u).kind = .guitar)
    (hoff : l.innerOff ≤ m.data.length) (hlen : (m.data.drop l.innerOff).length = s.cfg.gtr.len) :
    exec (.lgyInput m) s = .next (commitChild u (guitarOut s.cfg .full .continuous (m.data.drop l.innerOff)) s) := by
  refine congrArg Host.Outcome.next ((withUser_of_names hlgy hu).trans ?_)
  rw [if_neg (by simp [hk]), if_neg (Nat.not_lt.mpr hoff)]
  exact if_pos ⟨hk, hlen⟩

theorem exec_lgyInput_drums (hlgy : s.cfg.lgy = some l) (hu : NamesUser l m u) (hk : (s.child u).kind = .drums)
    (hoff : l.innerOff ≤ m.data.length) (hlen : (m.data.drop l.innerOff).length = s.cfg.drm.len) :
    exec (.lgyInput m) s = .next (decodeChildDrums u (m.data.drop l.innerOff) s) := by
  refine congrArg Host.Outcome.next ((withUser_of_names hlgy hu).trans ?_)
  rw [if_neg (by simp [hk]), if_neg (Nat.not_lt.mpr hoff)]
  exact (if_neg (by simp [hk])).trans (if_pos ⟨hk, hlen⟩)

theorem exec_lgyInput_ignored (hlgy : s.cfg.lgy = some l) (hu : NamesUser l m u)
    (hnot : (s.child u).kind = .none ∨ m.data.length < l.innerOff
      ∨ ¬(((s.child u).kind = .guitar ∧ (m.data.drop l.innerOff).length = s.cfg.gtr.len)
        ∨ ((s.child u).kind = .drums ∧ (m.data.drop l.innerOff).length = s.cfg.drm.len))) :
    exec (.lgyInput m) s = .next (ignoreMessage s) := by
  refine congrArg Host.Outcome.next ((withUser_of_names hlgy hu).trans ?_)
  by_cases hk : (s.child u).kind = .none
  · exact if_pos hk
  by_cases hshort : m.data.length < l.innerOff
  · exact (if_neg hk).trans (if_pos hshort)
  obtain ⟨hgtr, hdrm⟩ := not_or.mp ((hnot.resolve_left hk).resolve_left hshort)
  rw [if_neg hk, if_neg hshort]
  exact (if_neg hgtr).trans (if_neg hdrm)

end

/-- Settles O51: by the subtype, and for a known one by the sink's answer. -/
theorem legacyConnectReplacesChild : Obligations.LegacyConnectReplacesChild := by
  unfold Obligations.LegacyConnectReplacesChild
  rintro n s m l u c t h hlgy hlong huser hin hc hmin rfl
  have hu : NamesUser l m u := ⟨hlong, huser, hin⟩
  refine ⟨fun hgtr hdrm => ?unknown, fun k hk => ⟨fun ho => ?opened, fun ho => ?refused⟩⟩
  case unknown => rw [exec_lgyConnect_unknown hlgy hu hmin (subtypeKind_of_unknown hgtr hdrm), finish_lgyUnknown]
  case opened =>
    rw [exec_lgyConnect_known hlgy hu hmin (subtypeKind_of_known hk), connectChild_of_open h hc k ho, Slot.withChild]
  case refused =>
    rw [exec_lgyConnect_known hlgy hu hmin (subtypeKind_of_known hk), connectChild_of_refused h hc k ho, Slot.withChild]

/-- Settles O52: the child is disposed, which does nothing to an absent one. -/
theorem legacyDisconnectRemovesChild : Obligations.LegacyDisconnectRemovesChild := by
  unfold Obligations.LegacyDisconnectRemovesChild
  intro n s m l u c h hlgy hlong huser hin hc
  rw [exec_lgyDisconnect hlgy ⟨hlong, huser, hin⟩]
  refine ⟨fun hlive => ?_, fun hk => ?_⟩
  · rw [disposeChild_eq_partway h hc, if_neg hlive, finish_partway, Slot.withChild]
  · rw [disposeChild_of_absent h hc hk, finish_eq_endedWith]

/-- Settles O53: the decoder of the child's kind runs on the inner bytes, or one of the row's tests fails. -/
theorem legacyInputReachesItsChild : Obligations.LegacyInputReachesItsChild := by
  unfold Obligations.LegacyInputReachesItsChild
  rintro n s m l u c inner h hlgy hlong huser hin hc rfl
  have hu : NamesUser l m u := ⟨hlong, huser, hin⟩
  have hchild : s.child u = c := child_of_getElem? h.1 hc
  refine ⟨fun hk hoff hlen => ⟨_, rfl, ?guitar⟩, fun hk hoff hlen => ⟨_, _, _, rfl, rfl, rfl, ?drums⟩,
    fun hnot => ?ignored⟩
  case guitar =>
    rw [exec_lgyInput_guitar hlgy hu (hchild ▸ hk) hoff hlen, commitChild_eq_endedWith h hc rfl]
    rfl
  case drums =>
    rw [exec_lgyInput_drums hlgy hu (hchild ▸ hk) hoff hlen, decodeChildDrums_eq_endedWith h hc rfl rfl rfl]
    rfl
  case ignored => rw [exec_lgyInput_ignored hlgy hu (hchild ▸ hnot), ignoreMessage_eq]

/-- Settles O54: the shared checks in their order, then the least length of a connect sub-message. -/
theorem legacySubMessageChecks : Obligations.LegacySubMessageChecks := by
  unfold Obligations.LegacySubMessageChecks
  intro s m i hi
  obtain ⟨k, hexec⟩ := exec_eq_withUser hi s
  rw [hexec, ← ignoreMessage_eq]
  refine ⟨fun hnone => ?_, fun l hlgy => ⟨fun hshort => ?_, fun hlong hout => ?_, fun hlong hin hmin => ?_⟩⟩
  · rw [withUser_of_no_unit hnone]
  · rw [withUser_of_unit hlgy, if_pos hshort]
  · rw [withUser_of_unit hlgy, if_neg (Nat.not_le.mpr hlong), if_pos hout, ignoreMessage, finish_lgyUnknown]
    rfl
  · rw [exec_lgyConnect_short hlgy ⟨hlong, rfl, hin⟩ hmin]

end Sys2Proof.Machine
end

section
/-! The values after reset (rules R361, R46, R38), the end of a step (rules R326, R325, R322, R41), and the control
operation with an unassigned number (rule R340). -/

namespace Sys2Proof.Machine

/-! ## Reset -/

/-- No slot is valid after reset, so no key has a session (rules R361, R22). -/
theorem findKey_resetFor (c : Cfg) (key : Key) : findKey key (State.resetFor c).slots = none :=
  findKey_none.mpr fun x hx hvalid => by simp [slot_of_reset hx] at hvalid

/-- Settles O12: every slot of the table is the reset slot of its configuration. -/
theorem resetValues : Obligations.ResetValues := by
  unfold Obligations.ResetValues
  refine ⟨rfl, rfl, ?_⟩
  rintro c _ rfl
  have hslots : ∀ x ∈ (State.resetFor c).slots, x.valid = false ∧ x.children.length = c.lgyUsers := fun x hx => by
    simp [slot_of_reset hx]
  exact ⟨rfl, List.length_replicate, hslots, rfl, rfl, rfl, rfl, rfl, findKey_resetFor c, rfl, rfl, rfl⟩

/-! ## The end of a step -/

/-- A slot's number below 128 stands in `LAST_SLOT` under bit 7 (rule R41). -/
theorem slotByte_some_toNat {i : Nat} (h : i < 128) : (slotByte (some i)).toNat = 128 + i := by
  have hnumber : (BitVec.ofNat 7 i).toNat = i := Nat.mod_eq_of_lt h
  rw [slotByte, if_pos h, BitVec.toNat_append, hnumber]
  exact (Nat.shiftLeft_add_eq_or_of_lt h 1).symm

/-- Bit 7 of `LAST_SLOT` says that a slot was selected, whatever its number (rule R41). -/
theorem slotByte_some_getLsbD_seven (i : Nat) : (slotByte (some i)).getLsbD 7 = true := by
  rw [slotByte, BitVec.getLsbD_append]
  rfl

theorem info32_toNat {v : Nat} (h : v < 2 ^ 32) : (info32 v).toNat = v := by
  rw [info32_of_lt h, BitVec.toNat_ofNat, Nat.mod_eq_of_lt h]

/-- Settles O19: the table of codes is compared row by row, and an end is `endedWith` by the code's class. -/
theorem finishAndRaiseEndTheStep : Obligations.FinishAndRaiseEndTheStep := by
  unfold Obligations.FinishAndRaiseEndTheStep
  refine ⟨by decide, rfl, fun i => slotByte_some_toNat, slotByte_some_getLsbD_seven, fun s v => ?_⟩
  exact ⟨fun c => finish_eq_endedWith c v s, info32_toNat, fun c hc => raise_of_invalid hc v s,
    fun c hc => raise_of_unsupported hc v s, fun c hc => raise_of_pending hc v s⟩

/-! ## An unassigned control operation -/

theorem decodeControl_unassigned {op : Nat} (h : 4 < op) (key : Key) (n : Nat) (mask : BitVec 16) :
    decodeControl op key n mask = none := by
  obtain ⟨k, rfl⟩ := Nat.exists_eq_add_of_le' h
  rfl

/-- Settles O8: the operation has no row, and its step is a record alone. -/
theorem unassignedControlOperationIgnored : Obligations.UnassignedControlOperationIgnored := by
  unfold Obligations.UnassignedControlOperationIgnored
  intro s op n key mask rest hin hop
  have hfetch : fetch (.control op key n mask) (stepStart rest s) = .ended (unassignedControl (stepStart rest s)) := by
    simp only [fetch, decodeControl_unassigned hop]
  exact step_of_ended hin hfetch

end Sys2Proof.Machine
end

section
/-! The rows of the control port (rules R342 to R346), each in the form in which a control operation ends. -/

namespace Sys2Proof.Machine

/-! ## The form of an end -/

section
variable {slots : List Slot} {raised : BitVec 16} {ev : List Event} {c : Code} {info : BitVec 32} {s : State}

/-- A control operation that selected no slot starts on idle working registers (rule R321). -/
theorem endedWith_beginControl (k : Key) :
    endedWith slots raised ev c info (beginControl k s) = controlEnded slots none k raised ev c info s := by
  simp [endedWith, controlEnded, beginControl, Work.idle]

theorem endedWith_select_beginControl (k : Key) (i : Nat) :
    endedWith slots raised ev c info (select i (beginControl k s))
      = controlEnded slots (some i) k raised ev c info s := by
  simp [endedWith, controlEnded, beginControl, select, Work.idle]

end

theorem finish_beginControl (c : Code) (v : Nat) (k : Key) (s : State) :
    finish c v (beginControl k s) = controlEnded s.slots none k 0 [] c (info32 v) s := by
  rw [finish_eq_endedWith, endedWith_beginControl, beginControl_slots]

/-- A teardown is a part of a row that writes the slot and closes its handles (rule R197). -/
theorem teardown_eq_partway (i : Nat) (s : State) :
    teardown i s = partway (s.slots.set i (s.slot i).torn) 0 (closes i (s.slot i)) s := by
  simp [teardown_eq, partway, passedOn]

theorem teardown_slot_other {i j : Nat} (h : i ≠ j) (s : State) : (teardown i s).slot j = s.slot j := by
  rw [teardown_eq]
  exact slot_setSlot_other h _

/-! ## RESET -/

/-- The closes that RESET owes slot `i`: none for a free slot (rule R342). -/
def State.liveCloses (s : State) (i : Nat) : List Event :=
  if (s.slot i).valid = true then closes i (s.slot i) else []

theorem liveCloses_congr {s t : State} {i : Nat} (h : t.slot i = s.slot i) : t.liveCloses i = s.liveCloses i := by
  rw [State.liveCloses, h, State.liveCloses]

theorem setSlot_cbs {s : State} {i : Nat} {x : Slot} (h : x.cb = (s.slot i).cb) :
    (s.setSlot i x).slots.map (·.cb) = s.slots.map (·.cb) := by
  calc (s.setSlot i x).slots.map (·.cb) = (s.slots.set i (s.slot i)).map (·.cb) := by
        rw [setSlot_slots, List.map_set, List.map_set, h]
    _ = s.slots.map (·.cb) := by rw [set_slot_self]

/-- Slots torn down one after the other: each is closed as it stood before the first, for no teardown writes another slot
(rules R342, R197). -/
theorem teardownAll_eq {l : List Nat} (hl : l.Nodup) (s : State) :
    ∃ slots, slots.map (·.cb) = s.slots.map (·.cb)
      ∧ teardownAll l s = { s with slots := slots, events := s.events ++ l.flatMap s.liveCloses } := by
  induction l generalizing s with
  | nil => exact ⟨s.slots, rfl, by simp [teardownAll]⟩
  | cons i rest ih =>
    obtain ⟨hi, hrest⟩ := List.nodup_cons.mp hl
    by_cases hv : (s.slot i).valid = true
    · obtain ⟨slots, hcb, htorn⟩ := ih hrest (teardown i s)
      have hcloses : rest.flatMap (teardown i s).liveCloses = rest.flatMap s.liveCloses :=
        List.flatMap_congr fun j hj => liveCloses_congr (teardown_slot_other (ne_of_mem_of_not_mem hj hi).symm s)
      rw [hcloses] at htorn
      rw [teardown_eq] at hcb htorn
      refine ⟨slots, hcb.trans (setSlot_cbs (torn_cb _)), ?_⟩
      rw [teardownAll, if_pos hv, teardown_eq, htorn, List.flatMap_cons, ← List.append_assoc, State.liveCloses,
        if_pos hv]
    · obtain ⟨slots, hcb, htorn⟩ := ih hrest s
      refine ⟨slots, hcb, ?_⟩
      rw [teardownAll, if_neg hv, htorn, List.flatMap_cons, State.liveCloses, if_neg hv, List.nil_append]

/-- Settles O55: the live handles are closed slot by slot, then the table is reset. -/
theorem resetOperation : Obligations.ResetOperation := by
  unfold Obligations.ResetOperation
  intro s
  obtain ⟨torn, hcb, htorn⟩ := teardownAll_eq (List.nodup_range (n := s.slots.length)) (beginControl 0 s)
  obtain ⟨hlen, hinvalid, hkept, -⟩ := resetSlots_spec s.cfg s.draws 0 torn
  have htable : torn.length = s.slots.length := by simpa using congrArg List.length hcb
  refine ⟨resetSlots s.cfg s.draws 0 torn, hlen.trans htable, hinvalid, hkept.trans hcb, ?_⟩
  rw [exec, execReset, htorn]
  rfl

/-! ## CLOSE -/

section
variable {k : Key} {i : Nat} {s : State}

/-- The teardown of the slot that a control operation selects (rule R197). -/
theorem teardown_select_beginControl (k : Key) (i : Nat) (s : State) :
    teardown i (select i (beginControl k s))
      = partway (s.slots.set i (s.slot i).torn) 0 (closes i (s.slot i)) (select i (beginControl k s)) :=
  teardown_eq_partway i _

theorem exec_close_of_none (h : findKey k s.slots = none) :
    exec (.close k) s = .next (finish .okControl 0 (beginControl k s)) := by
  simp only [exec, execClose, beginControl_slots, h]

/-- The session of the key is torn down, and what the teardown leaves in its slot is no longer valid (rule R343). -/
theorem exec_close_of_some (h : findKey k s.slots = some i) :
    exec (.close k) s = .next (finish .okControl 1 (partway (s.slots.set i { (s.slot i).torn with valid := false }) 0
      (closes i (s.slot i)) (select i (beginControl k s)))) := by
  have hselected : Selected i (select i (beginControl k s)) := ⟨rfl, lt_of_findKey h⟩
  obtain ⟨hsel, hslot⟩ := hselected.partway_set (s.slot i).torn 0 (closes i (s.slot i))
  rw [select_slots, beginControl_slots, ← teardown_select_beginControl] at hsel hslot
  simp only [exec, execClose, beginControl_slots, h]
  rw [setCur_of_sel hsel.1, cur_of_sel hsel.1, hslot, teardown_select_beginControl, setSlot_eq_partway, partway_partway,
    partway_slots, List.set_set, List.append_nil]
  rfl

/-- Settles O56: the key has no session, or its slot is torn down and then freed. -/
theorem closeOperation : Obligations.CloseOperation := by
  unfold Obligations.CloseOperation
  intro s k
  refine ⟨fun hnone => ?_, fun i hfind => ?_⟩
  · rw [exec_close_of_none hnone, finish_beginControl]
    rfl
  · rw [exec_close_of_some hfind, finish_partway, endedWith_select_beginControl]
    rfl

/-! ## SINK_LOST -/

/-- Without a session or without a mapper there is no sink to lose (rule R344). -/
theorem exec_sinkLost_of_no_mapper (h : ∀ i, findKey k s.slots = some i → (s.slot i).mapper.kind = .none) :
    exec (.sinkLost k) s = .next (finish .okControl 0 (beginControl k s)) := by
  cases hfind : findKey k s.slots with
  | none => simp only [exec, execSinkLost, beginControl_slots, hfind]
  | some i => simp only [exec, execSinkLost, beginControl_slots, beginControl_slot, hfind, h i hfind, if_true]

theorem exec_sinkLost_of_mapper (h : findKey k s.slots = some i) (hlive : (s.slot i).mapper.kind ≠ .none) :
    exec (.sinkLost k) s = .next (finish .disconnected 0 (partway (s.slots.set i (s.slot i).torn) 0x0100
      (closes i (s.slot i)) (select i (beginControl k s)))) := by
  simp only [exec, execSinkLost, beginControl_slots, beginControl_slot, h, hlive, if_false]
  rw [teardown_select_beginControl, raiseEv_eq_partway, partway_partway, partway_slots, List.append_nil]
  rfl

/-- Settles O57: there is no sink to lose, or the slot is torn down and the flag raised. -/
theorem sinkLostOperation : Obligations.SinkLostOperation := by
  unfold Obligations.SinkLostOperation
  intro s k
  refine ⟨fun hnone => ?_, fun i hfind hlive => ?_⟩
  · rw [exec_sinkLost_of_no_mapper hnone, finish_beginControl]
    rfl
  · rw [exec_sinkLost_of_mapper hfind hlive, finish_partway, endedWith_select_beginControl]
    rfl

end

/-! ## CSR_READ -/

/-- Bit `i` of `SESS_VALID` is `valid` of slot `i` (rule R41). -/
theorem sessValid_testBit (slots : List Slot) (i : Nat) :
    (sessValid slots).testBit i = (slots[i]?.map (·.valid)).getD false := by
  induction slots generalizing i with
  | nil => simp [sessValid]
  | cons x rest ih =>
    cases i with
    | zero => cases hv : x.valid <;> simp [sessValid, hv]
    | succ i =>
      have hrest : sessValid (x :: rest) / 2 = sessValid rest := by
        rw [sessValid]
        split <;> omega
      rw [Nat.testBit_succ, hrest, ih, List.getElem?_cons_succ]

/-- The register map (rule R42). -/
theorem csrValue_eq (n : Nat) (s : State) :
    csrValue n s = if n = 0 then s.evflags.toNat else if n = 1 then s.lastCode.toNat else if n = 2 then s.lastInfo.toNat
      else if n = 3 then s.lastSlot.toNat else if n = 4 then sessValid s.slots else 0 := by
  match n with
  | 0 | 1 | 2 | 3 | 4 | n + 5 => rfl

/-- Settles O58: the row reports the register's value and ends; the valid bits are read off the table one by one. -/
theorem csrReadOperation : Obligations.CsrReadOperation := by
  unfold Obligations.CsrReadOperation
  refine ⟨fun s n v hv => ?_, sessValid_testBit⟩
  rw [hv, ← csrValue_eq]
  rfl

/-! ## CSR_W1C -/

/-- The writable bits are the bits 8:0 (rule R345). -/
theorem getLsbD_evWritable {i : Nat} (hi : i < 16) : evWritable.getLsbD i = decide (i < 9) := by
  decide +revert

/-- What a write of a one to `EVFLAGS` leaves, bit by bit (rule R345). -/
theorem getLsbD_clearEv (e mask : BitVec 16) {i : Nat} (hi : i < 16) :
    (clearEv e mask).getLsbD i = (e.getLsbD i && !(decide (i < 9) && mask.getLsbD i)) := by
  rw [clearEv, BitVec.getLsbD_and, BitVec.getLsbD_not, BitVec.getLsbD_and, getLsbD_evWritable hi, decide_eq_true hi,
    Bool.true_and, Bool.and_comm (mask.getLsbD i)]

/-- `EVFLAGS` after a write to register `n`: only register 0 is writable (rule R345). -/
def evflagsAfterW1c (n : Nat) (mask evflags : BitVec 16) : BitVec 16 := if n = 0 then clearEv evflags mask else evflags

theorem getLsbD_evflagsAfterW1c (n : Nat) (mask e : BitVec 16) {i : Nat} (hi : i < 16) :
    (evflagsAfterW1c n mask e).getLsbD i = (e.getLsbD i && !(decide (n = 0) && decide (i < 9) && mask.getLsbD i)) := by
  unfold evflagsAfterW1c
  by_cases hn : n = 0
  · rw [if_pos hn, getLsbD_clearEv e mask hi, decide_eq_true hn, Bool.true_and]
  · rw [if_neg hn, decide_eq_false hn, Bool.false_and, Bool.false_and, Bool.not_false, Bool.and_true]

theorem exec_csrW1c (n : Nat) (mask : BitVec 16) (s : State) :
    exec (.csrW1c n mask) s = .next (finish .okControl (evflagsAfterW1c n mask s.evflags).toNat
      (beginControl 0 { s with evflags := evflagsAfterW1c n mask s.evflags })) := by
  unfold evflagsAfterW1c
  by_cases hn : n = 0
  · rw [if_pos hn, hn]
    rfl
  · rw [if_neg hn]
    simp only [exec, execCsrW1c, hn, if_false]
    rfl

/-- A 16-bit register as an info value (rule R321). -/
theorem info32_toNat_half (e : BitVec 16) : info32 e.toNat = e.setWidth 32 := by
  rw [info32_of_lt (e.isLt.trans (by decide)), BitVec.ofNat_toNat]

/-- Settles O59: the register after the write is given bit by bit, and the info is that register. -/
theorem csrWriteOneToClear : Obligations.CsrWriteOneToClear := by
  unfold Obligations.CsrWriteOneToClear
  intro s n mask e hbits
  have hwritten : evflagsAfterW1c n mask s.evflags = e :=
    BitVec.eq_of_getLsbD_eq fun i hi => (getLsbD_evflagsAfterW1c n mask s.evflags hi).trans (hbits i hi).symm
  rw [exec_csrW1c, hwritten, finish_beginControl, info32_toNat_half]
  simp [controlEnded]

end Sys2Proof.Machine
end

section
/-! What the rows of a frame leave of the block (rules R335, R363, R375, R25, R26): every operation of every row keeps the
configuration, the flags that were set, the session of every valid slot and what that session holds once and for all. -/

namespace Sys2Proof.Machine

/-! ## A slot whose latches stay -/

/-- `y` is the slot `x` at a later point of its session: what `x` holds once and for all it still holds (rules R22, R25, R26,
R375, R190). -/
structure Slot.Settled (x y : Slot) : Prop where
  valid : y.valid = x.valid
  tag : y.tag = x.tag
  arrival : x.arrivalSeen = true → y.arrivalSeen = true ∧ y.vid = x.vid ∧ y.pid = x.pid
  desc : x.descSeen = true →
    y.descSeen = true ∧ y.guids = x.guids ∧ y.names = x.names ∧ y.descPartial = x.descPartial
  warned : x.fbWarned = true → y.fbWarned = true
  mapper : x.mapper.kind ≠ .none → y.mapper = x.mapper

theorem Slot.Settled.refl (x : Slot) : x.Settled x where
  valid := rfl
  tag := rfl
  arrival h := ⟨h, rfl, rfl⟩
  desc h := ⟨h, rfl, rfl, rfl⟩
  warned := id
  mapper _ := rfl

theorem Slot.Settled.trans {x y z : Slot} (h : x.Settled y) (h' : y.Settled z) : x.Settled z where
  valid := h'.valid.trans h.valid
  tag := h'.tag.trans h.tag
  arrival hx := by
    obtain ⟨hy, hvid, hpid⟩ := h.arrival hx
    obtain ⟨hz, hvid', hpid'⟩ := h'.arrival hy
    exact ⟨hz, hvid'.trans hvid, hpid'.trans hpid⟩
  desc hx := by
    obtain ⟨hy, hguids, hnames, hpart⟩ := h.desc hx
    obtain ⟨hz, hguids', hnames', hpart'⟩ := h'.desc hy
    exact ⟨hz, hguids'.trans hguids, hnames'.trans hnames, hpart'.trans hpart⟩
  warned hx := h'.warned (h.warned hx)
  mapper hx := by
    have hy := h.mapper hx
    exact (h'.mapper (hy ▸ hx)).trans hy

/-- The part of a slot that is written once in a session. -/
def Slot.once (x : Slot) :
    (Bool × Key) × (Bool × Half × Half) × (Bool × List (List Byte) × List (List Byte) × Bool) × Bool × Mapper :=
  ((x.valid, x.tag), (x.arrivalSeen, x.vid, x.pid), (x.descSeen, x.guids, x.names, x.descPartial), x.fbWarned, x.mapper)

/-- Every other part of a slot may be written at any time. -/
theorem settled_of_once {x y : Slot} (h : y.once = x.once) : x.Settled y := by
  simp only [Slot.once, Prod.mk.injEq] at h
  obtain ⟨⟨hvalid, htag⟩, ⟨hseen, hvid, hpid⟩, ⟨hdesc, hguids, hnames, hpart⟩, hwarned, hmapper⟩ := h
  exact ⟨hvalid, htag, fun hx => ⟨hseen.trans hx, hvid, hpid⟩, fun hx => ⟨hdesc.trans hx, hguids, hnames, hpart⟩,
    hwarned.trans, fun _ => hmapper⟩

/-- A slot in which the warning was given (rule R196). -/
theorem settled_warned (x : Slot) : x.Settled { x with fbWarned := true } :=
  { Slot.Settled.refl x with warned := fun _ => rfl }

/-- The ids are stored where no arrival was seen (rule R184). -/
theorem settled_arrived {x : Slot} (h : x.arrivalSeen = false) (vid pid : Half) :
    x.Settled { x with vid := vid, pid := pid, arrivalSeen := true } :=
  { Slot.Settled.refl x with arrival := fun hx => absurd hx (by simp [h]) }

/-- A parse is stored where no descriptor was seen (rule R222). -/
theorem settled_described {x : Slot} (h : x.descSeen = false) (g nm : List (List Byte)) (part : Bool) :
    x.Settled (x.described g nm part) :=
  { Slot.Settled.refl x with desc := fun hx => absurd hx (by simp [h]) }

/-- A mapper is constructed where there is none (rules R190, R196). -/
theorem settled_mapped {x : Slot} (h : x.mapper.kind = .none) (k : Kind) (am : AxisMode) (pm : PickupMode) :
    x.Settled (x.mapped k am pm) :=
  { Slot.Settled.refl x with mapper := fun hx => absurd h hx }

/-- A slot of the table is written, and every slot stays what it was to its session. -/
theorem settled_setSlot {s : State} {n : Nat} {x : Slot} (h : (s.slot n).Settled x) (j : Nat) :
    (s.slot j).Settled ((s.setSlot n x).slot j) := by
  by_cases hnj : n = j
  · subst hnj
    by_cases hn : n < s.slots.length
    · rwa [slot_setSlot_same hn]
    · have houtside : (s.setSlot n x).slot n = s.slot n :=
        slot_congr (List.set_eq_of_length_le (Nat.le_of_not_lt hn)) n
      exact houtside ▸ .refl _
  · exact (slot_setSlot_other hnj x).symm ▸ .refl _

/-! ## A block whose sessions stay -/

/-- From `s₀` to `s` a part of a frame's step was run, which keeps the configuration, the read-data port, the flags that
were set, and every session with what it holds once and for all. -/
structure FrameKeeps (s₀ s : State) : Prop where
  cfg : s.cfg = s₀.cfg
  evflags : s.evflags &&& s₀.evflags = s₀.evflags
  readData : s.readData = s₀.readData
  slot : ∀ j, (s₀.slot j).valid = true → (s₀.slot j).Settled (s.slot j)

theorem FrameKeeps.refl (s : State) : FrameKeeps s s where
  cfg := rfl
  evflags := BitVec.and_self
  readData := rfl
  slot j _ := .refl (s.slot j)

namespace FrameKeeps

variable {s₀ s t : State}

theorem emit (h : FrameKeeps s₀ s) (e : Event) : FrameKeeps s₀ (emit e s) := { h with }

theorem setStage (h : FrameKeeps s₀ s) (g : Stage) : FrameKeeps s₀ (setStage g s) := { h with }

theorem setHdr (h : FrameKeeps s₀ s) (hd : Option Hdr) : FrameKeeps s₀ (setHdr hd s) := { h with }

theorem finish (h : FrameKeeps s₀ s) (c : Code) (v : Nat) : FrameKeeps s₀ (finish c v s) := { h with }

theorem ignoreMessage (h : FrameKeeps s₀ s) : FrameKeeps s₀ (ignoreMessage s) := h.finish _ _

/-- A flag is sticky: to raise one clears none (rule R40). -/
theorem raiseEv (h : FrameKeeps s₀ s) (e : Ev) : FrameKeeps s₀ (raiseEv e s) :=
  { h with
    evflags := by
      rw [raiseEv_evflags, BitVec.and_or_distrib_right, h.evflags]
      ext i
      simp +contextual }

theorem raise (h : FrameKeeps s₀ s) (c : Code) (v : Nat) : FrameKeeps s₀ (raise c v s) := by
  have hclass : FrameKeeps s₀ (raiseClass c.cls s) := by
    cases c.cls with
    | invalid | unsupported => exact h.raiseEv _
    | ok | pending | disconnected => exact h
  exact hclass.finish c v

/-- The step's slot may be written if what it holds once and for all stays. -/
theorem setCur (h : FrameKeeps s₀ s) {x : Slot} (hx : s.cur.Settled x) : FrameKeeps s₀ (s.setCur x) := by
  unfold State.setCur
  split
  · next n hsel =>
    rw [cur_of_sel hsel] at hx
    exact { h with slot := fun j hj => (h.slot j hj).trans (settled_setSlot hx j) }
  · exact h

/-- Every other part of the step's slot may be written at any time. -/
theorem setCur_of_once (h : FrameKeeps s₀ s) {x : Slot} (hx : x.once = s.cur.once := by rfl) :
    FrameKeeps s₀ (s.setCur x) :=
  h.setCur (settled_of_once hx)

/-! ## Level 1 -/

theorem dedup (h : FrameKeeps s₀ s) (m : Message) : FrameKeeps s₀ (dedup m s) := by
  unfold Machine.dedup
  split
  · exact h.finish _ _
  · exact h.setCur_of_once.setStage _

theorem discardChunks (h : FrameKeeps s₀ s) : FrameKeeps s₀ (discardChunks s) := h.setCur_of_once

theorem chunkAppend (h : FrameKeeps s₀ s) (off : Nat) (p : List Byte) : FrameKeeps s₀ (chunkAppend off p s) := by
  unfold Machine.chunkAppend chunkStore
  split
  · exact h.discardChunks.raise _ _
  · split
    · exact h.discardChunks.raise _ _
    · exact h.setCur_of_once.raise _ _

theorem chunkTerminate (h : FrameKeeps s₀ s) (hd : Hdr) (x : Nat) : FrameKeeps s₀ (chunkTerminate hd x s) := by
  unfold Machine.chunkTerminate
  split
  · exact h.discardChunks.raise _ _
  · exact h.discardChunks.dedup _

theorem framing_row (h : FrameKeeps s₀ s) {i : Instr} (hl : i.level = .framing) : GoesOn (FrameKeeps s₀) (exec i s) := by
  cases i with
  | msg hd p => exact .next (h.dedup _)
  | chkNop hd => exact .next (h.finish _ _)
  | chkS hd x p =>
    refine ⟨_, rfl, ?_⟩
    split
    · exact h.discardChunks.raise _ _
    · split
      · exact h.discardChunks.raise _ _
      · exact h.setCur_of_once.chunkAppend 0 p
  | chkE hd x =>
    refine ⟨_, rfl, ?_⟩
    split
    · exact h.raise _ _
    · split
      · exact h.chunkTerminate hd x
      · exact h.chunkAppend x []
  | chkD hd x p =>
    refine ⟨_, rfl, ?_⟩
    split
    · exact h.raise _ _
    · exact h.chunkAppend x p
  | _ => nomatch hl

/-! ## Level 2 -/

theorem construct (h : FrameKeeps s₀ s) (hnone : s.cur.mapper.kind = .none) (k : Kind) (am : AxisMode)
    (pm : PickupMode) : FrameKeeps s₀ (construct k am pm s) := by
  have hset : FrameKeeps s₀ (s.setCur (s.cur.mapped k am pm)) := h.setCur (settled_mapped hnone k am pm)
  unfold Machine.construct
  dsimp only
  split
  · exact h.raiseEv _
  · split
    · exact (hset.emit _).emit _
    · exact hset.emit _

theorem factory (h : FrameKeeps s₀ s) (hnone : s.cur.mapper.kind = .none) : FrameKeeps s₀ (factory s) := by
  rcases factory_cases s with ⟨e, -, eq⟩ | ⟨-, eq⟩ <;> rw [eq]
  · exact h.construct hnone _ _ _
  · exact (h.raiseEv _).construct hnone _ _ _

theorem selectMapper (h : FrameKeeps s₀ s) : FrameKeeps s₀ (selectMapper s) := by
  have hbuilt : FrameKeeps s₀ (if s.cur.mapper.kind = .none then Machine.factory s else s) := by
    split
    · next hnone => exact h.factory hnone
    · exact h
  unfold Machine.selectMapper
  dsimp only
  generalize (if s.cur.mapper.kind = .none then Machine.factory s else s) = t at hbuilt ⊢
  split
  · exact hbuilt.raise _ _
  · exact hbuilt.finish _ _

theorem dscCommit (h : FrameKeeps s₀ s) (hfresh : s.cur.descSeen = false) (g nm : List (List Byte)) (part cap : Bool) :
    FrameKeeps s₀ (dscCommit g nm part cap s) := by
  have hset : FrameKeeps s₀ (s.setCur (s.cur.described g nm part)) := h.setCur (settled_described hfresh g nm part)
  cases part <;> cases cap
  · exact hset
  · exact hset.raiseEv _
  · exact hset.raiseEv _
  · exact (hset.raiseEv _).raiseEv _

theorem lazyFallback (h : FrameKeeps s₀ s) (hnone : s.cur.mapper.kind = .none) : FrameKeeps s₀ (lazyFallback s) := by
  have hbuilt := h.construct hnone .fallback .full .continuous
  unfold Machine.lazyFallback
  dsimp only
  split
  · exact hbuilt
  · split
    · exact hbuilt
    · exact (hbuilt.setCur (settled_warned _)).raiseEv _

theorem forward (h : FrameKeeps s₀ s) (m : Message) : FrameKeeps s₀ (forward m s) := by
  have hmapper : FrameKeeps s₀ (if s.cur.mapper.kind = .none then Machine.lazyFallback s else s) := by
    split
    · next hnone => exact h.lazyFallback hnone
    · exact h
  unfold Machine.forward
  dsimp only
  generalize (if s.cur.mapper.kind = .none then Machine.lazyFallback s else s) = t at hmapper ⊢
  split
  · exact hmapper.raise _ _
  · split
    · exact hmapper.raise _ _
    · exact hmapper.setStage _

theorem dispatch_row (h : FrameKeeps s₀ s) {i : Instr} (hl : i.level = .dispatch) :
    GoesOn (FrameKeeps s₀) (exec i s) := by
  cases i with
  | ack m | auth m | serial m => exact .next (h.finish _ _)
  | arrival m =>
    refine ⟨_, rfl, ?_⟩
    split
    · exact h.finish _ _
    · next hfresh =>
      split
      · exact h.raise _ _
      · exact (h.setCur (settled_arrived (Bool.eq_false_of_not_eq_true hfresh) _ _)).finish _ _
  | descriptor m =>
    refine ⟨_, rfl, ?_⟩
    split
    · exact h.finish _ _
    · next hfresh =>
      split
      · exact h.raise _ _
      · exact (h.dscCommit (Bool.eq_false_of_not_eq_true hfresh) _ _ _ _).selectMapper
  | keystroke m | input m | ghlInput m | other m => exact .next (h.forward m)
  | _ => nomatch hl

/-! ## Level 3 -/

theorem commit (h : FrameKeeps s₀ s) (o : Out) : FrameKeeps s₀ (commit o s) := (h.setCur_of_once.emit _).finish _ _

theorem decodeDrums (h : FrameKeeps s₀ s) (d : List Byte) : FrameKeeps s₀ (decodeDrums d s) := h.setCur_of_once.commit _

theorem runLayout (h : FrameKeeps s₀ s) (k : Kind) (d : List Byte) : FrameKeeps s₀ (runLayout k d s) := by
  cases k with
  | guitar | sixFret | gamepad => exact h.commit _
  | drums => exact h.decodeDrums d
  | none | fallback | legacyDemux => exact h.ignoreMessage

theorem setChild (h : FrameKeeps s₀ s) (u : Nat) (x : Child) : FrameKeeps s₀ (s.setChild u x) := h.setCur_of_once

theorem disposeChild (h : FrameKeeps s₀ s) (u : Nat) : FrameKeeps s₀ (disposeChild u s) := by
  unfold Machine.disposeChild
  split
  · exact h
  · exact (h.setChild u _).emit _

theorem connectChild (h : FrameKeeps s₀ s) (u : Nat) (k : Kind) : FrameKeeps s₀ (connectChild u k s) := by
  have hdisposed := h.disposeChild u
  unfold Machine.connectChild
  dsimp only
  split
  · exact (hdisposed.raiseEv _).finish _ _
  · exact ((hdisposed.setChild u _).emit _).finish _ _

theorem commitChild (h : FrameKeeps s₀ s) (u : Nat) (o : Out) : FrameKeeps s₀ (commitChild u o s) :=
  ((h.setChild u _).emit _).finish _ _

theorem decodeChildDrums (h : FrameKeeps s₀ s) (u : Nat) (d : List Byte) : FrameKeeps s₀ (decodeChildDrums u d s) :=
  (h.setChild u _).commitChild u _

theorem withUser (h : FrameKeeps s₀ s) (m : Message) {f : LgyCfg → Nat → State} (hf : ∀ l u, FrameKeeps s₀ (f l u)) :
    FrameKeeps s₀ (withUser m s f) := by
  rcases withUser_cases m s f with ⟨-, e⟩ | ⟨l, -, ⟨-, e⟩ | ⟨-, -, e⟩ | ⟨-, -, e⟩⟩ <;> rw [e]
  · exact h.ignoreMessage
  · exact h.ignoreMessage
  · exact (h.raiseEv _).ignoreMessage
  · exact hf l _

/-- A report that a layout takes or, of another length, ignores (rule R241). -/
theorem ite_ignore (h : FrameKeeps s₀ s) {p : Prop} [Decidable p] (ht : FrameKeeps s₀ t) :
    FrameKeeps s₀ (if p then t else Machine.ignoreMessage s) := by
  split
  · exact ht
  · exact h.ignoreMessage

theorem report_row (h : FrameKeeps s₀ s) {i : Instr} (hl : i.level = .report) : GoesOn (FrameKeeps s₀) (exec i s) := by
  cases i with
  | inputGtr m | ghlInputGhl m | inputPad m => exact .next (h.ite_ignore (h.commit _))
  | inputDrm m => exact .next (h.ite_ignore (h.decodeDrums _))
  | inputFb m =>
    refine ⟨_, rfl, ?_⟩
    split
    · exact h.runLayout _ _
    · exact h.ignoreMessage
  | keystrokeGuide m =>
    refine ⟨_, rfl, ?_⟩
    split
    · exact h.ignoreMessage
    · split
      · exact h.ignoreMessage
      · exact (h.setCur_of_once.emit _).finish _ _
  | lgyConnect m =>
    refine ⟨_, rfl, h.withUser m fun l u => ?_⟩
    split
    · exact h.ignoreMessage
    · split
      · exact (h.raiseEv _).finish _ _
      · exact h.connectChild u _
  | lgyDisconnect m => exact ⟨_, rfl, h.withUser m fun l u => (h.disposeChild u).finish _ _⟩
  | lgyInput m =>
    refine ⟨_, rfl, h.withUser m fun l u => ?_⟩
    split
    · exact h.ignoreMessage
    · split
      · exact h.ignoreMessage
      · dsimp only
        split
        · exact h.commitChild u _
        · exact h.ite_ignore (h.decodeChildDrums u _)
  | noop m => exact .next h.ignoreMessage
  | _ => nomatch hl

/-! ## The rows of a frame -/

theorem runNext (h : FrameKeeps s₀ s) : GoesOn (FrameKeeps s₀) (runNext s) := by
  unfold Machine.runNext nextInstr
  cases s.work.stage with
  | done => exact .next h
  | message m => exact h.dispatch_row (decodeMessage_level _ _)
  | report m => exact h.report_row (decodeReport_level _ _ _)

theorem runRows (h : FrameKeeps s₀ s) {i : Instr} (hl : i.level = .framing) : GoesOn (FrameKeeps s₀) (runRows i s) :=
  ((h.framing_row hl).andThen fun _ => runNext).andThen fun _ => runNext

end FrameKeeps

end Sys2Proof.Machine
end

section
/-! The step of a frame keeps what its rows keep (rules R335, R375): ROUTE allocates a slot that holds no session, and the
header decoder writes working registers alone. -/

namespace Sys2Proof.Machine

/-! ## The start of a frame's step -/

/-- ROUTE writes no session: it allocates a slot that has none (rules R131, R46). -/
theorem route_frameKeeps {key : Key} {s t : State} (h : route key s = some t) : FrameKeeps s t := by
  have hslot (j : Nat) (hj : (s.slot j).valid = true) : (s.slot j).Settled (t.slot j) :=
    (route_keeps_valid_slot h hj).symm ▸ .refl _
  rcases route_cases key s with ⟨i, -, -, e⟩ | ⟨i, -, -, -, e⟩ | ⟨-, -, e⟩ <;> rw [e] at h <;> cases h
  · exact { FrameKeeps.refl s with }
  · exact { FrameKeeps.refl s with slot := hslot }

/-- How the start of a frame's step keeps the sessions: the step ended, or a level-1 row to run. -/
def FetchKeeps (s₀ : State) (f : Fetched) : Prop :=
  (∃ t, f = .ended t ∧ FrameKeeps s₀ t) ∨ ∃ i t, f = .run i t ∧ i.level = .framing ∧ FrameKeeps s₀ t

theorem FrameKeeps.fetchHeader {s₀ s : State} (h : FrameKeeps s₀ s) (bytes : List Byte) :
    FetchKeeps s₀ (fetchHeader bytes s) := by
  unfold Machine.fetchHeader
  split
  · exact .inl ⟨_, rfl, (h.setHdr _).raise _ _⟩
  · refine .inr ⟨_, _, rfl, decodeFraming_level _ _, ?_⟩
    split
    · exact (h.setHdr _).raiseEv _
    · exact h.setHdr _

theorem fetchFrame_keeps (bytes : List Byte) (s : State) : FetchKeeps s (fetchFrame bytes s) := by
  unfold fetchFrame
  split
  · exact .inl ⟨_, rfl, (FrameKeeps.refl s).raise _ _⟩
  · split
    · exact .inl ⟨_, rfl, (FrameKeeps.refl s).raise _ _⟩
    · next hroute => exact (route_frameKeeps hroute).fetchHeader bytes

/-! ## The step of a frame -/

section
variable {s t : State} {key : Key} {bytes : List Byte} {o r : Bool} {rest : List Input}

/-- A frame's step keeps what a frame keeps, from the state on in which it looks at the frame. -/
theorem step_deliver_keeps (hin : s.inputs = .deliver key bytes o r :: rest) :
    ∃ t, step s = .next (endStep t) ∧ FrameKeeps (frameStart key o r rest s) t := by
  rcases fetchFrame_keeps bytes (frameStart key o r rest s) with ⟨t, e, ht⟩ | ⟨i, t, e, hl, ht⟩
  · exact ⟨t, step_of_ended hin e, ht⟩
  · obtain ⟨u, hu, hrows⟩ := ht.runRows hl
    exact ⟨u, step_of_run hin e hu, hrows⟩

/-- The same between the two ends of the step; its read-data port was cleared at the start (rule R346). -/
theorem frameKeeps_of_step (hin : s.inputs = .deliver key bytes o r :: rest) (hstep : step s = .next t) :
    FrameKeeps { s with readData := none } t := by
  obtain ⟨u, hu, hkeeps⟩ := step_deliver_keeps hin
  obtain rfl := Host.Outcome.next.inj (hu.symm.trans hstep)
  exact ⟨hkeeps.cfg, hkeeps.evflags, hkeeps.readData, hkeeps.slot⟩

end

/-- Settles O16: a frame keeps valid slots and their tags, the flags that are set, and the cleared read-data port. -/
theorem framePortReach : Obligations.FramePortReach := by
  unfold Obligations.FramePortReach
  intro s t key bytes o r rest hin hstep
  have hkeeps := frameKeeps_of_step hin hstep
  refine ⟨fun j hj => ?_, hkeeps.evflags, hkeeps.readData⟩
  exact ⟨(hkeeps.slot j hj).valid.trans hj, (hkeeps.slot j hj).tag⟩

/-- Settles O17: a valid slot is settled, and a frame's step leaves it so. -/
theorem onceOnlyLatches : Obligations.OnceOnlyLatches := by
  unfold Obligations.OnceOnlyLatches
  intro s t key bytes o r rest j hin hstep hj
  obtain ⟨-, -, harrival, hdesc, hwarned, hmapper⟩ := (frameKeeps_of_step hin hstep).slot j hj
  exact ⟨harrival, hdesc, hwarned, hmapper⟩

end Sys2Proof.Machine
end

section
/-! No step writes the configuration (rule R363): a frame's rows keep it, and so does each row of the control port. -/

namespace Sys2Proof.Machine

/-- No row of the control port writes the configuration, RESET's included (rule R363). -/
theorem control_row_cfg {i : Instr} (hl : i.level = .control) (s : State) :
    GoesOn (fun t => t.cfg = s.cfg) (exec i s) := by
  cases i with
  | reset =>
    obtain ⟨slots, -, -, -, hreset⟩ := resetOperation s
    exact ⟨_, hreset, rfl⟩
  | close k =>
    cases hfind : findKey k s.slots with
    | none => exact ⟨_, exec_close_of_none hfind, rfl⟩
    | some i => exact ⟨_, exec_close_of_some hfind, rfl⟩
  | sinkLost k =>
    by_cases hnone : ∀ i, findKey k s.slots = some i → (s.slot i).mapper.kind = .none
    · exact ⟨_, exec_sinkLost_of_no_mapper hnone, rfl⟩
    · push Not at hnone
      obtain ⟨i, hfind, hlive⟩ := hnone
      exact ⟨_, exec_sinkLost_of_mapper hfind hlive, rfl⟩
  | csrRead n => exact ⟨_, rfl, rfl⟩
  | csrW1c n mask => exact ⟨_, exec_csrW1c n mask s, rfl⟩
  | _ => nomatch hl

theorem step_control_cfg {s : State} {op : Nat} {key : Key} {n : Nat} {mask : BitVec 16} {rest : List Input}
    (hin : s.inputs = .control op key n mask :: rest) : GoesOn (fun t => t.cfg = s.cfg) (step s) := by
  cases hop : decodeControl op key n mask with
  | none =>
    exact ⟨endStep (unassignedControl (stepStart rest s)), step_of_ended hin (by simp only [fetch, hop]), rfl⟩
  | some i =>
    rw [stepRunsControlOperation s s.ctx op n key mask rest i hin ((decode_control_iff _ _ _ _ _ _).mpr hop)]
    exact (control_row_cfg (decodeControl_level hop) (stepStart rest s)).andThen fun t ht => ⟨_, rfl, ht⟩

/-- Settles O13: an idle step, a frame and a control operation leave the configuration. -/
theorem configurationNeverChanges : Obligations.ConfigurationNeverChanges := by
  unfold Obligations.ConfigurationNeverChanges
  intro s t hstep
  cases hin : s.inputs with
  | nil =>
    obtain rfl := Host.Outcome.next.inj ((step_of_nil hin).symm.trans hstep)
    rfl
  | cons inp rest =>
    cases inp with
    | deliver key bytes o r => exact (frameKeeps_of_step hin hstep).cfg
    | control op key n mask =>
      obtain ⟨u, hu, hcfg⟩ := step_control_cfg hin
      obtain rfl := Host.Outcome.next.inj (hu.symm.trans hstep)
      exact hcfg

end Sys2Proof.Machine
end
